-- ==== Sys2Proof/Word.lean ====
section
/-! DEFINITION. The word types of the block and the small fixed-size containers its values come in:
3-vectors, quaternions and triplets (00_scope.md R12, 42_modes.md R180). -/

namespace Sys2Proof

/-- One byte of a frame (20_memory.md R60). -/
abbrev Byte := BitVec 8

/-- One 32-bit register (10_state.md R22). -/
abbrev Word := BitVec 32

/-- A 144-bit frame; frame bit `k` is bit `k` of this word (20_memory.md R60). -/
abbrev Frame := BitVec 144

/-- A 3-vector `(v0, v1, v2)`, indexed by `j` in 0, 1, 2 (00_scope.md R12). -/
structure Vec3 (α : Type) where
  v0 : α
  v1 : α
  v2 : α
deriving DecidableEq, Repr

/-- A quaternion `(q0, q1, q2, q3)`, indexed by `c` in 0, 1, 2, 3 (00_scope.md R12). -/
structure Quat (α : Type) where
  c0 : α
  c1 : α
  c2 : α
  c3 : α
deriving DecidableEq, Repr

/-- A triplet of samples in the order first, mid, last (42_modes.md R180). -/
structure Triplet (α : Type) where
  first : α
  mid : α
  last : α
deriving DecidableEq, Repr

/-- `v[j]`. -/
def Vec3.get {α : Type} (v : Vec3 α) : Fin 3 → α
  | 0 => v.v0
  | 1 => v.v1
  | 2 => v.v2

/-- One operation on each component (00_scope.md R12). -/
def Vec3.map {α β : Type} (f : α → β) (v : Vec3 α) : Vec3 β :=
  { v0 := f v.v0, v1 := f v.v1, v2 := f v.v2 }

/-- One operation on each pair of components (00_scope.md R12). -/
def Vec3.zipWith {α β γ : Type} (f : α → β → γ) (a : Vec3 α) (b : Vec3 β) : Vec3 γ :=
  { v0 := f a.v0 b.v0, v1 := f a.v1 b.v1, v2 := f a.v2 b.v2 }

/-- A predicate on a vector holds iff it holds for every component (00_scope.md R12). -/
def Vec3.all {α : Type} (f : α → Bool) (v : Vec3 α) : Bool :=
  f v.v0 && f v.v1 && f v.v2

/-- `q[c]`. -/
def Quat.get {α : Type} (q : Quat α) : Fin 4 → α
  | 0 => q.c0
  | 1 => q.c1
  | 2 => q.c2
  | 3 => q.c3

/-- `q` with component `c` replaced. -/
def Quat.set {α : Type} (q : Quat α) (c : Fin 4) (x : α) : Quat α :=
  match c with
  | 0 => { q with c0 := x }
  | 1 => { q with c1 := x }
  | 2 => { q with c2 := x }
  | 3 => { q with c3 := x }

/-- One operation on each component. -/
def Quat.map {α β : Type} (f : α → β) (q : Quat α) : Quat β :=
  { c0 := f q.c0, c1 := f q.c1, c2 := f q.c2, c3 := f q.c3 }

/-- The sample of number `s`: 0 first, 1 mid, 2 last. -/
def Triplet.get {α : Type} (t : Triplet α) : Fin 3 → α
  | 0 => t.first
  | 1 => t.mid
  | 2 => t.last

/-- The triplet with sample `s` replaced. -/
def Triplet.set {α : Type} (t : Triplet α) (s : Fin 3) (x : α) : Triplet α :=
  match s with
  | 0 => { t with first := x }
  | 1 => { t with mid := x }
  | 2 => { t with last := x }

/-- One operation on each sample. -/
def Triplet.map {α β : Type} (f : α → β) (t : Triplet α) : Triplet β :=
  { first := f t.first, mid := f t.mid, last := f t.last }

end Sys2Proof
end

