-- ==== Sys2Proof/Syntax.lean ====
section
/-! DEFINITION. The instructions: the eight rows of spec/opcode_table.json, four command words
(30_encoding.md R81) and four kinds of frame (R83). A frame's fields are what the layouts of R87 to R89
name; the bits no field owns (CMD [31:2], the slack bits, an unknown frame's other bits) are kept, so
that no bit of an encoding is dropped (LOG 13). -/

namespace Sys2Proof

/-- The frame modes (30_encoding.md R83). -/
inductive Mode where
  | individual
  | firstLastDeltaMid
  | lastDeltaFirstDeltaMid
  | unknown
deriving DecidableEq, Repr

/-- The timestamp of a frame, of TSIN and of TSOUT (30_encoding.md R85, 10_state.md R31, R34). -/
structure TimeStamp where
  start : BitVec 11
  count : BitVec 6
deriving DecidableEq, Repr

/-- One sample record of mode 0: a missing index and three 13-bit components (30_encoding.md R87). -/
structure IndSample where
  idx : BitVec 2
  c : Vec3 (BitVec 13)
deriving DecidableEq, Repr

/-- The payload fields of mode 0 (30_encoding.md R87). -/
structure IndPayload where
  samples : Triplet IndSample
deriving DecidableEq, Repr

/-- The payload fields of mode 1 (30_encoding.md R88). -/
structure FLPayload where
  idx : BitVec 2
  f : Vec3 (BitVec 16)
  l : Vec3 (BitVec 16)
  sh : BitVec 1
  d : Vec3 (BitVec 8)
deriving DecidableEq, Repr

/-- The payload fields of mode 2 (30_encoding.md R89). -/
structure LDPayload where
  idx : BitVec 2
  l : Vec3 (BitVec 21)
  fd : Vec3 (BitVec 13)
  md : Vec3 (BitVec 7)
deriving DecidableEq, Repr

/-- The instructions. The commands are what the HOST writes to CMD; the frames are what the ENGINE runs
when it completes a DECODE (LOG 12). -/
inductive Instr where
  /-- CMD with OP = 0; `reserved` is CMD [31:2] (43_commands.md R237). -/
  | nop (reserved : BitVec 30)
  /-- CMD with OP = 1 (43_commands.md R235). -/
  | encode (reserved : BitVec 30)
  /-- CMD with OP = 2 (43_commands.md R236). -/
  | decode (reserved : BitVec 30)
  /-- CMD with OP = 3 (43_commands.md R238). -/
  | reservedOp3 (reserved : BitVec 30)
  /-- A frame of mode 0; `slack` is frame bits [143:142] (42_modes.md R196, 30_encoding.md R86). -/
  | frameIndividual (p : IndPayload) (ts : TimeStamp) (slack : BitVec 2)
  /-- A frame of mode 1; `slack` is frame bits [143:142] (42_modes.md R193, 30_encoding.md R86). -/
  | frameFirstLastDeltaMid (p : FLPayload) (ts : TimeStamp) (slack : BitVec 2)
  /-- A frame of mode 2, which has no slack bits (42_modes.md R187). -/
  | frameLastDeltaFirstDeltaMid (p : LDPayload) (ts : TimeStamp)
  /-- A frame of mode code 3; `rest` is its other 142 bits (43_commands.md R232). -/
  | frameUnknown (rest : BitVec 142)
deriving DecidableEq, Repr

end Sys2Proof
end

