-- ==== Sys2Proof/Config.lean ====
section
/-! DEFINITION. What the spec leaves to an implementation (00_scope.md R7), and the free values. The
parameters are plain data that State carries and no step changes (LOG 6); the two constants without a
body are values nothing in Lean can evaluate (LOG 5, LOG 7). -/

namespace Sys2Proof

/-- The payload fields of mode 0 (30_encoding.md R87): `idx s` is IDX_s, `c s j` is C_s[j]. -/
inductive IndField where
  | idx (s : Fin 3)
  | c (s j : Fin 3)
deriving DecidableEq, Repr

/-- The payload fields of mode 1 (30_encoding.md R88). -/
inductive FLField where
  | idx
  | f (j : Fin 3)
  | l (j : Fin 3)
  | sh
  | d (j : Fin 3)
deriving DecidableEq, Repr

/-- The payload fields of mode 2 (30_encoding.md R89). -/
inductive LDField where
  | idx
  | l (j : Fin 3)
  | fd (j : Fin 3)
  | md (j : Fin 3)
deriving DecidableEq, Repr

namespace Config

/-- PAYLOAD_LAYOUT: the order of the fields inside each mode payload (00_scope.md R7; LOG 9). -/
structure Layout where
  ind : List IndField
  fl : List FLField
  ld : List LDField
deriving DecidableEq, Repr

/-- QUANT_TRUNC: how quantize discards fractional bits (40_fixedpoint.md R126). -/
inductive QuantTrunc where
  | towardZero
  | floor
deriving DecidableEq, Repr

/-- AVG_MODE: the rounding of avg (40_fixedpoint.md R131). -/
inductive AvgMode where
  | shift
  | halfAway
deriving DecidableEq, Repr

/-- RECON_SQRT: the square root of recon_d. `other` names any root but the exact floor root; the tag
tells several of them apart (41_elision.md R165; LOG 7). -/
inductive ReconSqrt where
  | floor
  | other (tag : Nat)
deriving DecidableEq, Repr

/-- The open parameters of 00_scope.md R7, but LAT, for which the schedule stands (LOG 8). -/
structure Params where
  base : Nat
  layout : Layout
  quantTrunc : QuantTrunc
  avgMode : AvgMode
  reconSqrt : ReconSqrt
deriving DecidableEq, Repr

/-- DESIGN CHOICE (LOG 7). The root an implementation with RECON_SQRT = `other tag` takes of the three
retained components: left without a body, so nothing can be proved of its value. -/
opaque otherRoot : Nat → Int → Int → Int → Nat

/-- DESIGN CHOICE (LOG 5). The value of the n-th read of an output register made while BUSY = 1
(70_reset_and_hazards.md R294): left without a body, so nothing can be proved of its value. -/
opaque busyRead : Nat → Word

end Config
end Sys2Proof
end

