-- ==== Sys2Proof/Machine/Fields.lean ====
section
/-! DEFINITION. Bits and fields: the primitives of 00_scope.md R10, the frame bit fields of 20_memory.md
R60 to R63, the mode codes of 30_encoding.md R83, the field widths and positions of R84 to R89. -/

namespace Sys2Proof

/-- `low_W(v)`: v mod 2^W (00_scope.md R10). -/
def low (W : Nat) (v : Int) : BitVec W := BitVec.ofInt W v

/-- `sext_W(b)` (00_scope.md R10). -/
def sext {W : Nat} (b : BitVec W) : Int := b.toInt

/-- `wrap32(v)`: the 32-bit two's-complement value congruent to v (00_scope.md R10). -/
def wrap32 (v : Int) : Int := sext (low 32 v)

/-- `v >>a k`: the arithmetic shift right, the floor of v / 2^k (00_scope.md R10). -/
def sra (v : Int) (k : Nat) : Int := v / 2 ^ k

/-- `FieldRead(fr, off, W)` (20_memory.md R61). -/
def fieldRead (fr : Frame) (off W : Nat) : BitVec W := fr.extractLsb' off W

/-- `FieldWrite(fr, off, W, v)` (20_memory.md R62). -/
def fieldWrite {W : Nat} (fr : Frame) (off : Nat) (v : BitVec W) : Frame :=
  (fr &&& ~~~((BitVec.allOnes W).setWidth 144 <<< off)) ||| (v.setWidth 144 <<< off)

/-- Byte `b` of a frame (20_memory.md R60). -/
def frameByte (fr : Frame) (b : Nat) : Byte := fr.extractLsb' (8 * b) 8

/-- The mode code (30_encoding.md R83). -/
def Mode.code : Mode → BitVec 2
  | .individual => 0
  | .firstLastDeltaMid => 1
  | .lastDeltaFirstDeltaMid => 2
  | .unknown => 3

/-- The mode of a code (30_encoding.md R83). -/
def Mode.ofCode (b : BitVec 2) : Mode :=
  if b = 0 then .individual
  else if b = 1 then .firstLastDeltaMid
  else if b = 2 then .lastDeltaFirstDeltaMid
  else .unknown

/-- `PLEN(m)` (30_encoding.md R84). Mode code 3 has no payload. -/
def payloadLen : Mode → Nat
  | .individual => 123
  | .firstLastDeltaMid => 123
  | .lastDeltaFirstDeltaMid => 125
  | .unknown => 0

/-- `TSOFF(m)`, where the timestamp begins (30_encoding.md R85). -/
def tsOffset (m : Mode) : Nat := 2 + payloadLen m

/-- Where the slack bits of modes 0 and 1 begin (30_encoding.md R86). -/
def slackOffset : Nat := 142

/-- Field widths of mode 0 (30_encoding.md R87). -/
def IndField.width : IndField → Nat
  | .idx _ => 2
  | .c _ _ => 13

/-- Field widths of mode 1 (30_encoding.md R88). -/
def FLField.width : FLField → Nat
  | .idx => 2
  | .f _ => 16
  | .l _ => 16
  | .sh => 1
  | .d _ => 8

/-- Field widths of mode 2 (30_encoding.md R89). -/
def LDField.width : LDField → Nat
  | .idx => 2
  | .l _ => 21
  | .fd _ => 13
  | .md _ => 7

/-- The value a payload gives a field of mode 0. -/
def IndPayload.get (p : IndPayload) : (f : IndField) → BitVec f.width
  | .idx s => (p.samples.get s).idx
  | .c s j => (p.samples.get s).c.get j

/-- The value a payload gives a field of mode 1. -/
def FLPayload.get (p : FLPayload) : (f : FLField) → BitVec f.width
  | .idx => p.idx
  | .f j => p.f.get j
  | .l j => p.l.get j
  | .sh => p.sh
  | .d j => p.d.get j

/-- The value a payload gives a field of mode 2. -/
def LDPayload.get (p : LDPayload) : (f : LDField) → BitVec f.width
  | .idx => p.idx
  | .l j => p.l.get j
  | .fd j => p.fd.get j
  | .md j => p.md.get j

/-- The default order of mode 0 (30_encoding.md R87): per sample the index, then the components. -/
def indStandard : List IndField :=
  [.idx 0, .c 0 0, .c 0 1, .c 0 2, .idx 1, .c 1 0, .c 1 1, .c 1 2, .idx 2, .c 2 0, .c 2 1, .c 2 2]

/-- The default order of mode 1 (30_encoding.md R88). -/
def flStandard : List FLField :=
  [.idx, .f 0, .f 1, .f 2, .l 0, .l 1, .l 2, .sh, .d 0, .d 1, .d 2]

/-- The default order of mode 2 (30_encoding.md R89). -/
def ldStandard : List LDField :=
  [.idx, .l 0, .l 1, .l 2, .fd 0, .fd 1, .fd 2, .md 0, .md 1, .md 2]

/-- PAYLOAD_LAYOUT's default (30_encoding.md R87 to R89). -/
def standardLayout : Config.Layout :=
  { ind := indStandard, fl := flStandard, ld := ldStandard }

/-- A layout orders each payload's fields: each list holds every field once (00_scope.md R7; LOG 9). -/
def layoutOk (lay : Config.Layout) : Bool :=
  lay.ind.isPerm indStandard && lay.fl.isPerm flStandard && lay.ld.isPerm ldStandard

/-- The parameters' defaults (00_scope.md R7). BASE has none in the spec: 0 is a DESIGN CHOICE (LOG 6). -/
def defaultParams : Config.Params :=
  { base := 0, layout := standardLayout, quantTrunc := .towardZero, avgMode := .shift, reconSqrt := .floor }

/-- Legal parameters: a layout is an order of the fields, and BASE lets BASE + 4n be a multiple of 4
(20_memory.md R67; LOG 10). -/
def paramsOk (p : Config.Params) : Bool := layoutOk p.layout && p.base % 4 == 0

/-- The bit offset of field `f` when the fields of `order` stand one after another from `off` on. -/
def offsetIn {F : Type} [DecidableEq F] (width : F → Nat) : List F → Nat → F → Nat
  | [], off, _ => off
  | g :: gs, off, f => if g = f then off else offsetIn width gs (off + width g) f

/-- The position of a field of mode 0; the payload begins at frame bit 2 (30_encoding.md R82, R87). -/
def indOffset (lay : Config.Layout) (f : IndField) : Nat := offsetIn IndField.width lay.ind 2 f

/-- The position of a field of mode 1 (30_encoding.md R88). -/
def flOffset (lay : Config.Layout) (f : FLField) : Nat := offsetIn FLField.width lay.fl 2 f

/-- The position of a field of mode 2 (30_encoding.md R89). -/
def ldOffset (lay : Config.Layout) (f : LDField) : Nat := offsetIn LDField.width lay.ld 2 f

/-- The fields of `order`, written left to right from bit `off` on (43_commands.md R230). -/
def writeFields {F : Type} (width : F → Nat) (value : (f : F) → BitVec (width f)) :
    List F → Nat → Frame → Frame
  | [], _, fr => fr
  | f :: fs, off, fr => writeFields width value fs (off + width f) (fieldWrite fr off (value f))

end Sys2Proof
end

