-- ==== Sys2Proof/Machine/State.lean ====
section
/-! DEFINITION. The state of the machine as plain data: the registers of 10_state.md R22, the ENGINE's
`pending` (R40), the open parameters, and the model's own fields for the HOST and the schedule. -/

namespace Sys2Proof.Machine

/-- The STATUS fields (10_state.md R24). -/
structure Status where
  busy : Bool
  done : Bool
  decFail : Bool
  cmdErr : Bool
  mode : Mode
deriving DecidableEq, Repr

/-- The operation of an accepted command (10_state.md R40). -/
inductive Op where
  | encode
  | decode
deriving DecidableEq, Repr

/-- A pending command `(op, snap)` with its operand snapshot (10_state.md R40, R41). -/
inductive Pending where
  /-- ENCODE: QIN[0..11], TSIN.START and TSIN.COUNT. -/
  | encode (q : Triplet (Quat Word)) (ts : TimeStamp)
  /-- DECODE: the 18 bytes of FRAME_IN[0..4]. -/
  | decode (fr : Frame)
deriving DecidableEq, Repr

/-- The registers of the window (10_state.md R22). -/
inductive Reg where
  | cmd
  | status
  | qin (k : Fin 12)
  | tsin
  | frameIn (j : Fin 5)
  | qout (k : Fin 12)
  | tsout
  | frameOut (j : Fin 5)
  | reserved
deriving DecidableEq, Repr

/-- One operation of the HOST's program (30_encoding.md R93): a bus read or write of `bytes` bytes at a
bus byte address (20_memory.md R67), or a POLL. -/
inductive HostOp where
  | read (addr bytes : Nat)
  | write (addr bytes : Nat) (v : Word)
  | poll (addr : Nat) (mask value : Word)
deriving DecidableEq, Repr

/-- Who acts next (43_commands.md R243). -/
inductive Turn where
  | host
  | engine
  | reset
deriving DecidableEq, Repr

/-- Why the machine faults: never. The block has no trap (60_exceptions.md R267), and both its error
conditions are STATUS bits of a next state (R260), so this type has no constructor (LOG 15). -/
inductive Fault where
deriving DecidableEq, Repr

/-- Why a step has no meaning. -/
inductive Refusal where
  /-- Raised by an arm of exec for an instruction without a meaning; no arm raises it. Safe. -/
  | notModelled (mnemonic : String)
  /-- Raised by a HOST access wider or narrower than 32 bits (20_memory.md R67). Safe. -/
  | busWidth
  /-- Raised by a HOST access at an address that is not a multiple of 4, or not at BASE + 4n
  (20_memory.md R67; LOG 10). Safe. -/
  | busAlignment
  /-- Raised by a HOST access outside BASE to BASE + 0xFF (20_memory.md R67). Safe. -/
  | busWindow
deriving DecidableEq, Repr

/-- The machine's state. `qin`, `qout` hold QIN[4s+c], QOUT[4s+c] as component c of sample s (10_state.md
R30, R33); `frameIn`, `frameOut` hold the five words of FRAME_IN, FRAME_OUT as one frame (R36). The last
four fields are the model's own (LOG 1, LOG 4, LOG 5). -/
structure State where
  params : Config.Params
  status : Status
  qin : Triplet (Quat Word)
  tsin : TimeStamp
  frameIn : Frame
  qout : Triplet (Quat Word)
  tsout : TimeStamp
  frameOut : Frame
  pending : Option Pending
  prog : List HostOp
  turns : List Turn
  rdata : Word
  draws : Nat
deriving DecidableEq, Repr

/-- Four zero components. -/
def zeroQuat : Quat Word := { c0 := 0, c1 := 0, c2 := 0, c3 := 0 }

/-- Twelve zero registers. -/
def zeroQuats : Triplet (Quat Word) := { first := zeroQuat, mid := zeroQuat, last := zeroQuat }

/-- The timestamp 0. -/
def zeroTs : TimeStamp := { start := 0, count := 0 }

/-- The reset value of STATUS: every field 0 (70_reset_and_hazards.md R290). -/
def resetStatus : Status :=
  { busy := false, done := false, decFail := false, cmdErr := false, mode := .individual }

/-- The machine right after reset (70_reset_and_hazards.md R290), with the default parameters, no HOST
program and no schedule (LOG 3, LOG 6). -/
def State.reset : State :=
  { params := defaultParams
    status := resetStatus
    qin := zeroQuats
    tsin := zeroTs
    frameIn := 0
    qout := zeroQuats
    tsout := zeroTs
    frameOut := 0
    pending := none
    prog := []
    turns := []
    rdata := 0
    draws := 0 }

/-- What a step finds to do: an instruction to run, or an action that is no instruction, with its
outcome. -/
inductive Fetched where
  | instr (i : Instr)
  | action (o : Host.Outcome State Fault Refusal)

end Sys2Proof.Machine
end

