-- ==== Sys2Proof/Machine/Flags.lean ====
section
/-! DEFINITION. STATUS: the word it reads as (10_state.md R24) and the four ways its flags change: on
acceptance (43_commands.md R234), on a completion (R239, with R235 and R236), by CmdErr (60_exceptions.md
R262) and by DecodeFail (R261). -/

namespace Sys2Proof.Machine

/-- STATUS as a word: BUSY [0], DONE [1], DEC_FAIL [2], CMDERR [3], MODE [5:4] (10_state.md R24). -/
def statusWord (st : Status) : Word :=
  0#26 ++ st.mode.code ++ BitVec.ofBool st.cmdErr ++ BitVec.ofBool st.decFail
    ++ BitVec.ofBool st.done ++ BitVec.ofBool st.busy

/-- Acceptance: BUSY 1; DONE, DEC_FAIL, CMDERR 0; MODE unchanged (43_commands.md R234). -/
def acceptStatus (st : Status) : Status :=
  { st with busy := true, done := false, decFail := false, cmdErr := false }

/-- Completion: BUSY 0, DONE 1; CMDERR, DEC_FAIL and MODE unchanged (43_commands.md R239). -/
def completeStatus (st : Status) : Status := { st with busy := false, done := true }

/-- MODE <- m: the result bits of an ENCODE, which leaves DEC_FAIL at the 0 its acceptance wrote
(43_commands.md R235). -/
def modeStatus (m : Mode) (st : Status) : Status := { st with mode := m }

/-- DEC_FAIL <- 0, MODE <- m: the result bits of a DECODE that does not fail (43_commands.md R236). -/
def decodedStatus (m : Mode) (st : Status) : Status := { st with decFail := false, mode := m }

/-- CMDERR <- 1 and nothing else (60_exceptions.md R262). -/
def cmdErrStatus (st : Status) : Status := { st with cmdErr := true }

/-- DEC_FAIL <- 1, MODE <- 3 (60_exceptions.md R261). -/
def decFailStatus (st : Status) : Status := { st with decFail := true, mode := .unknown }

end Sys2Proof.Machine
end

