-- ==== Sys2Proof/WellFormed.lean ====
section
/-! DEFINITION. What a conforming producer writes: the bits that no field owns are 0. The block itself
accepts every bit pattern (30_encoding.md R92), so no meaning depends on this check (LOG 13). -/

namespace Sys2Proof

/-- Software writes 0 to CMD [31:2] (30_encoding.md R80); the slack bits are 0 on encode (R86); the
encoder never writes mode code 3 (R83), so a frame of an unknown mode is none it produced. -/
def Instr.wellFormed : Instr → Bool
  | .nop reserved => reserved == 0
  | .encode reserved => reserved == 0
  | .decode reserved => reserved == 0
  | .reservedOp3 reserved => reserved == 0
  | .frameIndividual _ _ slack => slack == 0
  | .frameFirstLastDeltaMid _ _ slack => slack == 0
  | .frameLastDeltaFirstDeltaMid _ _ => true
  | .frameUnknown _ => false

end Sys2Proof
end

