-- ==== Sys2Proof/Decode.lean ====
section
/-! DEFINITION. Decoding and encoding of the two encoded objects of 30_encoding.md, the command word (R80,
R81) and the frame (R82 to R89), for every PAYLOAD_LAYOUT. -/

namespace Sys2Proof

/-- The two encoded objects (30_encoding.md, opening). -/
inductive Encoded where
  | cmd (w : Word)
  | frame (fr : Frame)
deriving DecidableEq, Repr

/-- Which of the two objects a string of bytes is read as: a CMD write gives a command word, a DECODE's
snapshot gives a frame. -/
inductive Space where
  | cmd
  | frame
deriving DecidableEq, Repr

/-- Why a string of bytes is no encoded object. Every bit pattern of the right length is one
(30_encoding.md R92). -/
inductive DecodeError where
  /-- A command word is 32 bits (30_encoding.md R80). -/
  | commandLength (bytes : Nat)
  /-- A frame is exactly 18 bytes (30_encoding.md R82, 00_scope.md R5). -/
  | frameLength (bytes : Nat)
deriving DecidableEq, Repr

/-- A decoder selects on `word[1:0]` alone (30_encoding.md R81). -/
def decodeCmd (w : Word) : Instr :=
  let op := w.extractLsb' 0 2
  let reserved := w.extractLsb' 2 30
  if op = 0 then .nop reserved
  else if op = 1 then .encode reserved
  else if op = 2 then .decode reserved
  else .reservedOp3 reserved

/-- The fields of a mode 0 payload (42_modes.md R196). -/
def readInd (lay : Config.Layout) (fr : Frame) : IndPayload :=
  let sample (s : Fin 3) : IndSample :=
    { idx := fieldRead fr (indOffset lay (.idx s)) 2
      c := { v0 := fieldRead fr (indOffset lay (.c s 0)) 13
             v1 := fieldRead fr (indOffset lay (.c s 1)) 13
             v2 := fieldRead fr (indOffset lay (.c s 2)) 13 } }
  { samples := { first := sample 0, mid := sample 1, last := sample 2 } }

/-- The fields of a mode 1 payload (42_modes.md R193). -/
def readFL (lay : Config.Layout) (fr : Frame) : FLPayload :=
  { idx := fieldRead fr (flOffset lay .idx) 2
    f := { v0 := fieldRead fr (flOffset lay (.f 0)) 16
           v1 := fieldRead fr (flOffset lay (.f 1)) 16
           v2 := fieldRead fr (flOffset lay (.f 2)) 16 }
    l := { v0 := fieldRead fr (flOffset lay (.l 0)) 16
           v1 := fieldRead fr (flOffset lay (.l 1)) 16
           v2 := fieldRead fr (flOffset lay (.l 2)) 16 }
    sh := fieldRead fr (flOffset lay .sh) 1
    d := { v0 := fieldRead fr (flOffset lay (.d 0)) 8
           v1 := fieldRead fr (flOffset lay (.d 1)) 8
           v2 := fieldRead fr (flOffset lay (.d 2)) 8 } }

/-- The fields of a mode 2 payload (42_modes.md R187). -/
def readLD (lay : Config.Layout) (fr : Frame) : LDPayload :=
  { idx := fieldRead fr (ldOffset lay .idx) 2
    l := { v0 := fieldRead fr (ldOffset lay (.l 0)) 21
           v1 := fieldRead fr (ldOffset lay (.l 1)) 21
           v2 := fieldRead fr (ldOffset lay (.l 2)) 21 }
    fd := { v0 := fieldRead fr (ldOffset lay (.fd 0)) 13
            v1 := fieldRead fr (ldOffset lay (.fd 1)) 13
            v2 := fieldRead fr (ldOffset lay (.fd 2)) 13 }
    md := { v0 := fieldRead fr (ldOffset lay (.md 0)) 7
            v1 := fieldRead fr (ldOffset lay (.md 1)) 7
            v2 := fieldRead fr (ldOffset lay (.md 2)) 7 } }

/-- The timestamp, immediately after the payload (30_encoding.md R85). -/
def readTs (fr : Frame) (m : Mode) : TimeStamp :=
  { start := fieldRead fr (tsOffset m) 11, count := fieldRead fr (tsOffset m + 11) 6 }

/-- The mode selector, then the payload of that mode, then the timestamp (43_commands.md R231, R232). -/
def decodeFrame (lay : Config.Layout) (fr : Frame) : Instr :=
  match Mode.ofCode (fieldRead fr 0 2) with
  | .individual =>
    .frameIndividual (readInd lay fr) (readTs fr .individual) (fieldRead fr slackOffset 2)
  | .firstLastDeltaMid =>
    .frameFirstLastDeltaMid (readFL lay fr) (readTs fr .firstLastDeltaMid) (fieldRead fr slackOffset 2)
  | .lastDeltaFirstDeltaMid =>
    .frameLastDeltaFirstDeltaMid (readLD lay fr) (readTs fr .lastDeltaFirstDeltaMid)
  | .unknown => .frameUnknown (fieldRead fr 2 142)

/-- The instruction of an encoded object. -/
def decode (lay : Config.Layout) : Encoded → Instr
  | .cmd w => decodeCmd w
  | .frame fr => decodeFrame lay fr

/-- Little-endian bytes as one number (20_memory.md R60, R68). -/
def natOfBytes : List Byte → Nat
  | [] => 0
  | b :: bs => b.toNat + 256 * natOfBytes bs

/-- `n` bytes of a number, the least significant first. -/
def bytesOfNat : Nat → Nat → List Byte
  | 0, _ => []
  | n + 1, v => BitVec.ofNat 8 v :: bytesOfNat n (v / 256)

/-- The frame of 18 bytes, byte 0 first (20_memory.md R60). -/
def frameOfBytes (bytes : List Byte) : Frame := BitVec.ofNat 144 (natOfBytes bytes)

/-- The encoded object a string of bytes is. -/
def objectOfBytes (sp : Space) (bytes : List Byte) : Except DecodeError Encoded :=
  match sp with
  | .cmd =>
    if bytes.length = 4 then .ok (.cmd (BitVec.ofNat 32 (natOfBytes bytes)))
    else .error (.commandLength bytes.length)
  | .frame =>
    if bytes.length = 18 then .ok (.frame (frameOfBytes bytes))
    else .error (.frameLength bytes.length)

/-- Decoding, total on any bytes: the instruction, or the reason there is none. -/
def decodeBytes (lay : Config.Layout) (sp : Space) (bytes : List Byte) : Except DecodeError Instr :=
  match objectOfBytes sp bytes with
  | .ok e => .ok (decode lay e)
  | .error r => .error r

/-! The encoder, from the same tables. -/

/-- CMD: OP in [1:0] (30_encoding.md R80). -/
def encodeCmd (op : BitVec 2) (reserved : BitVec 30) : Word := reserved ++ op

/-- The frame of 43_commands.md R230 with its payload written by `payload`: zero bits, then the mode
selector, then the payload, then START and COUNT. -/
def buildFrame (m : Mode) (payload : Frame → Frame) (ts : TimeStamp) : Frame :=
  let fr := payload (fieldWrite 0#144 0 m.code)
  fieldWrite (fieldWrite fr (tsOffset m) ts.start) (tsOffset m + 11) ts.count

/-- A mode 0 frame (42_modes.md R195). -/
def buildInd (lay : Config.Layout) (p : IndPayload) (ts : TimeStamp) : Frame :=
  buildFrame .individual (writeFields IndField.width p.get lay.ind 2) ts

/-- A mode 1 frame (42_modes.md R192). -/
def buildFL (lay : Config.Layout) (p : FLPayload) (ts : TimeStamp) : Frame :=
  buildFrame .firstLastDeltaMid (writeFields FLField.width p.get lay.fl 2) ts

/-- A mode 2 frame (42_modes.md R186). -/
def buildLD (lay : Config.Layout) (p : LDPayload) (ts : TimeStamp) : Frame :=
  buildFrame .lastDeltaFirstDeltaMid (writeFields LDField.width p.get lay.ld 2) ts

/-- The encoded object of an instruction. -/
def encode (lay : Config.Layout) : Instr → Encoded
  | .nop r => .cmd (encodeCmd 0 r)
  | .encode r => .cmd (encodeCmd 1 r)
  | .decode r => .cmd (encodeCmd 2 r)
  | .reservedOp3 r => .cmd (encodeCmd 3 r)
  | .frameIndividual p ts slack => .frame (fieldWrite (buildInd lay p ts) slackOffset slack)
  | .frameFirstLastDeltaMid p ts slack => .frame (fieldWrite (buildFL lay p ts) slackOffset slack)
  | .frameLastDeltaFirstDeltaMid p ts => .frame (buildLD lay p ts)
  | .frameUnknown rest => .frame (fieldWrite (fieldWrite 0#144 0 Mode.unknown.code) 2 rest)

/-- The bytes of an encoded object, the least significant first. -/
def Encoded.bytes : Encoded → List Byte
  | .cmd w => bytesOfNat 4 w.toNat
  | .frame fr => bytesOfNat 18 fr.toNat

/-- The bytes of an opcode-table word. The table's rows are of two objects, which it tells apart by width:
a row of 9 to 32 bits is a command word, any other is a frame (a FRAME row's mask covers only the frame's
first byte); the bits above `nbits` are 0 (LOG 11). -/
def tableBytes (nbits w : Nat) : Space × List Byte :=
  if 8 < nbits ∧ nbits ≤ 32 then (.cmd, bytesOfNat 4 (w % 2 ^ nbits))
  else (.frame, bytesOfNat 18 (w % 2 ^ nbits))

/-- The instruction the decoder reads from an opcode-table word, under the default layout. -/
def decodeTableWord (nbits w : Nat) : Option Instr :=
  match decodeBytes standardLayout (tableBytes nbits w).1 (tableBytes nbits w).2 with
  | .ok i => some i
  | .error _ => none

end Sys2Proof
end

