-- ==== Sys2Proof/Machine/FixedPoint.lean ====
section
/-! DEFINITION. The rounding and range unit on raw integers (40_fixedpoint.md R123 to R136). None of these
operations writes a flag. -/

namespace Sys2Proof.Machine

open Sys2Proof.Config

/-- `embed(value, P, W)`; P does not affect the result (40_fixedpoint.md R123). -/
def embed (value : Int) (W : Nat) : BitVec W := low W value

/-- `extract(bits, P, W)` (40_fixedpoint.md R124). -/
def extract {W : Nat} (bits : BitVec W) : Int := sext bits

/-- `quantize_N(r)`; the sum is exact (40_fixedpoint.md R126). -/
def quantize (t : QuantTrunc) (N : Nat) (r : Int) : Int :=
  let eps : Int := 2 ^ (29 - N)
  let sum := r + r.sign * eps
  match t with
  | .towardZero => sum.tdiv (2 ^ (30 - N))
  | .floor => sra sum (30 - N)

/-- `dequantize_N(q)` (40_fixedpoint.md R128). -/
def dequantize (N : Nat) (q : Int) : Int := wrap32 (q * 2 ^ (30 - N))

/-- `add(a, b)` (40_fixedpoint.md R129). -/
def add (a b : Int) : Int := wrap32 (a + b)

/-- `sub(a, b)` (40_fixedpoint.md R130). -/
def sub (a b : Int) : Int := wrap32 (a - b)

/-- `avg(a, b)` (40_fixedpoint.md R131, 90_conflicts.md C1). -/
def avg (m : AvgMode) (a b : Int) : Int :=
  let s := wrap32 (a + b)
  match m with
  | .shift => sra (wrap32 (s + s.sign)) 1
  | .halfAway => (s + s.sign).tdiv 2

/-- `fits_within(v, W)`, the shift form (40_fixedpoint.md R132). -/
def fitsWithin (v : Int) (W : Nat) : Bool :=
  let k := 32 - W
  sra (wrap32 (v * 2 ^ k)) k == v

/-- `fits_within` of a vector: of every component (40_fixedpoint.md R132, R135). -/
def vecFits (v : Vec3 Int) (W : Nat) : Bool := v.all fun x => fitsWithin x W

/-- `preshift(d)` (40_fixedpoint.md R134). -/
def preshift (d : Int) : Int := sra d 2

/-- `unshift(e)` (40_fixedpoint.md R134). -/
def unshift (e : Int) : Int := wrap32 (e * 2 ^ 2)

/-- The bits of the root of `n` below bit `b`, found from the highest down; `m` is the root so far. -/
def isqrtBits : Nat → Nat → Nat → Nat
  | 0, _, m => m
  | b + 1, n, m =>
    let m' := m + 2 ^ b
    isqrtBits b n (if m' * m' ≤ n then m' else m)

/-- `isqrt(n)`: the largest m with m·m ≤ n (00_scope.md R10). -/
def isqrt (n : Nat) : Nat := isqrtBits (n.log2 / 2 + 1) n 0

end Sys2Proof.Machine
end

