-- ==== Sys2Proof/Machine/Elision.lean ====
section
/-! DEFINITION. The elided-component unit (41_elision.md R160 to R165). -/

namespace Sys2Proof.Machine

open Sys2Proof.Config

/-- `max_abs_idx(q)`: exact magnitudes, ties keep the lower index (41_elision.md R160). -/
def maxAbsIdx (q : Quat Int) : Fin 4 :=
  let better (best c : Fin 4) : Fin 4 := if (q.get c).natAbs > (q.get best).natAbs then c else best
  better (better (better 0 1) 2) 3

/-- `esign(q, i)`; a zero component gets +1 (41_elision.md R161). -/
def esign (q : Quat Int) (i : Fin 4) : Int := if q.get i < 0 then -1 else 1

/-- The vector of `to_quat3(q, i)`: the components after i in cyclic order, times the sign
(41_elision.md R162). -/
def toQuat3 (q : Quat Int) (i : Fin 4) : Vec3 Int :=
  let s := esign q i
  { v0 := wrap32 (s * q.get (i + 1))
    v1 := wrap32 (s * q.get (i + 2))
    v2 := wrap32 (s * q.get (i + 3)) }

/-- The radicand R = 2^60 - S of the missing component (41_elision.md R165). -/
def radicand (v : Vec3 Int) : Int := 2 ^ 60 - (v.v0 ^ 2 + v.v1 ^ 2 + v.v2 ^ 2)

/-- `recon_d(v)`: the root clamped at 0. A root other than the default is any value from 0 to 2^30
(41_elision.md R165, 93_implementation_defined.md 4; LOG 7). -/
def reconD (alg : ReconSqrt) (v : Vec3 Int) : Int :=
  let r := radicand v
  if r ≤ 0 then 0
  else match alg with
    | .floor => isqrt r.toNat
    | .other tag => min (Config.otherRoot tag v.v0 v.v1 v.v2) (2 ^ 30)

/-- `reconstruct(i, v)` (41_elision.md R164). -/
def reconstruct (alg : ReconSqrt) (i : Fin 4) (v : Vec3 Int) : Quat Int :=
  let zero : Quat Int := { c0 := 0, c1 := 0, c2 := 0, c3 := 0 }
  (((zero.set (i + 1) v.v0).set (i + 2) v.v1).set (i + 3) v.v2).set i (reconD alg v)

end Sys2Proof.Machine
end

