-- ==== Sys2Proof/Machine/Modes.lean ====
section
/-! DEFINITION. The mode packers and unpackers, mode selection (42_modes.md R180 to R199) and the encode
entrypoint ENC_FRAME (43_commands.md R230). -/

namespace Sys2Proof.Machine

open Sys2Proof.Config

/-- A missing index as its 2-bit field (30_encoding.md R90). -/
def idxBits (i : Fin 4) : BitVec 2 := BitVec.ofFin i

/-- A 2-bit field as a missing index: `zext_2` (30_encoding.md R90). -/
def idxOf (b : BitVec 2) : Fin 4 := b.toFin

/-- The elided samples E_0, E_1, E_2 of the delta modes, each with its own sign (42_modes.md R182). -/
def elided (q : Triplet (Quat Int)) (idx : Fin 4) : Triplet (Vec3 Int) := q.map fun x => toQuat3 x idx

/-- The quantized samples F, M, L (42_modes.md R183, R189). -/
def quantized (p : Params) (N : Nat) (e : Triplet (Vec3 Int)) : Triplet (Vec3 Int) :=
  e.map fun v => v.map (quantize p.quantTrunc N)

/-- `sub(M, avg(F, L))` per component (42_modes.md R184, R189). -/
def midDelta (p : Params) (x : Triplet (Vec3 Int)) : Vec3 Int :=
  x.mid.zipWith sub (x.first.zipWith (avg p.avgMode) x.last)

/-- `sub(L, F)` per component (42_modes.md R184). -/
def firstDelta (x : Triplet (Vec3 Int)) : Vec3 Int := x.last.zipWith sub x.first

/-- ok_LD (42_modes.md R185). -/
def okLD (p : Params) (x : Triplet (Vec3 Int)) : Bool :=
  vecFits (firstDelta x) 13 && vecFits (midDelta p x) 7

/-- pack_LD (42_modes.md R186). -/
def packLD (p : Params) (idx : Fin 4) (x : Triplet (Vec3 Int)) : LDPayload :=
  { idx := idxBits idx
    l := x.last.map fun v => embed v 21
    fd := (firstDelta x).map fun v => embed v 13
    md := (midDelta p x).map fun v => embed v 7 }

/-- gate_FL: both magnitudes strictly above 2^29, on the original components (42_modes.md R188). -/
def gateFL (q : Triplet (Quat Int)) (idx : Fin 4) : Bool :=
  decide ((q.first.get idx).natAbs > 2 ^ 29) && decide ((q.last.get idx).natAbs > 2 ^ 29)

/-- SH as a Bool: the delta does not fit 8 bits (42_modes.md R190). -/
def shFlag (d : Vec3 Int) : Bool := !vecFits d 8

/-- DS (42_modes.md R190). -/
def shiftedDelta (d : Vec3 Int) : Vec3 Int := if shFlag d then d.map preshift else d

/-- ok_FL (42_modes.md R191). -/
def okFL (p : Params) (q : Triplet (Quat Int)) (idx : Fin 4) (x : Triplet (Vec3 Int)) : Bool :=
  gateFL q idx && vecFits (shiftedDelta (midDelta p x)) 8

/-- pack_FL (42_modes.md R192). -/
def packFL (p : Params) (idx : Fin 4) (x : Triplet (Vec3 Int)) : FLPayload :=
  let d := midDelta p x
  { idx := idxBits idx
    f := x.first.map fun v => embed v 16
    l := x.last.map fun v => embed v 16
    sh := BitVec.ofBool (shFlag d)
    d := (shiftedDelta d).map fun v => embed v 8 }

/-- One sample of Individual, at its own index (42_modes.md R194, R195). -/
def packSample (p : Params) (q : Quat Int) : IndSample :=
  let i := maxAbsIdx q
  { idx := idxBits i, c := (toQuat3 q i).map fun v => embed (quantize p.quantTrunc 12 v) 13 }

/-- pack_IND (42_modes.md R195). -/
def packInd (p : Params) (q : Triplet (Quat Int)) : IndPayload := { samples := q.map (packSample p) }

/-- The shared missing index (42_modes.md R181). -/
def sharedIdx (q : Triplet (Quat Int)) : Fin 4 := maxAbsIdx q.mid

/-- F, M, L of the triplet at N fractional bits (42_modes.md R183, R189). -/
def samplesAt (p : Params) (N : Nat) (q : Triplet (Quat Int)) : Triplet (Vec3 Int) :=
  quantized p N (elided q (sharedIdx q))

/-- The mode ENC_PAYLOAD selects (42_modes.md R199). -/
def selectMode (p : Params) (q : Triplet (Quat Int)) : Mode :=
  if okLD p (samplesAt p 20 q) then .lastDeltaFirstDeltaMid
  else if okFL p q (sharedIdx q) (samplesAt p 15 q) then .firstLastDeltaMid
  else .individual

/-- `ENC_FRAME(Q, start, count)`: the frame of the selected mode and its fields (43_commands.md R230,
42_modes.md R199). Irreducible, so that no comparison of states computes a frame; `unfold encFrame` opens it. -/
@[irreducible] def encFrame (p : Params) (q : Triplet (Quat Int)) (ts : TimeStamp) : Frame :=
  match selectMode p q with
  | .lastDeltaFirstDeltaMid => buildLD p.layout (packLD p (sharedIdx q) (samplesAt p 20 q)) ts
  | .firstLastDeltaMid => buildFL p.layout (packFL p (sharedIdx q) (samplesAt p 15 q)) ts
  | _ => buildInd p.layout (packInd p q) ts

/-- The quaternion of a missing index and three components with N fractional bits. -/
def rebuild (p : Params) (N : Nat) (idx : BitVec 2) (v : Vec3 Int) : Quat Int :=
  reconstruct p.reconSqrt (idxOf idx) (v.map (dequantize N))

/-- F, M, L of a mode 2 payload (42_modes.md R187). -/
def samplesLD (p : Params) (x : LDPayload) : Triplet (Vec3 Int) :=
  let l := x.l.map extract
  let f := l.zipWith sub (x.fd.map extract)
  let m := (x.md.map extract).zipWith add (f.zipWith (avg p.avgMode) l)
  { first := f, mid := m, last := l }

/-- unpack_LD (42_modes.md R187). -/
def unpackLD (p : Params) (x : LDPayload) : Triplet (Quat Int) :=
  (samplesLD p x).map (rebuild p 20 x.idx)

/-- F, M, L of a mode 1 payload (42_modes.md R193). -/
def samplesFL (p : Params) (x : FLPayload) : Triplet (Vec3 Int) :=
  let f := x.f.map extract
  let l := x.l.map extract
  let e := x.d.map extract
  let d := if x.sh = 1 then e.map unshift else e
  { first := f, mid := d.zipWith add (f.zipWith (avg p.avgMode) l), last := l }

/-- unpack_FL (42_modes.md R193). -/
def unpackFL (p : Params) (x : FLPayload) : Triplet (Quat Int) :=
  (samplesFL p x).map (rebuild p 15 x.idx)

/-- unpack_IND (42_modes.md R196). -/
def unpackInd (p : Params) (x : IndPayload) : Triplet (Quat Int) :=
  x.samples.map fun s => rebuild p 12 s.idx (s.c.map extract)

end Sys2Proof.Machine
end

