-- ==== Sys2Proof/Machine/Operands.lean ====
section
/-! DEFINITION. The operand and result registers as the window shows them: which register an index names
(10_state.md R22), the word each reads as and what a write keeps of a word (R30 to R39), the frame words
(R36), and the operand snapshots (R41). -/

namespace Sys2Proof.Machine

/-- Register k = 4s + c of a file of twelve (10_state.md R30). -/
def regGet (t : Triplet (Quat Word)) (k : Fin 12) : Word :=
  (t.get ⟨k.val / 4, by omega⟩).get ⟨k.val % 4, by omega⟩

/-- The file with register k = 4s + c replaced (10_state.md R30). -/
def regSet (t : Triplet (Quat Word)) (k : Fin 12) (w : Word) : Triplet (Quat Word) :=
  t.set ⟨k.val / 4, by omega⟩ ((t.get ⟨k.val / 4, by omega⟩).set ⟨k.val % 4, by omega⟩ w)

/-- A timestamp as a register word: START [10:0], COUNT [16:11], the rest 0 (10_state.md R31). -/
def tsWord (ts : TimeStamp) : Word := 0#15 ++ ts.count ++ ts.start

/-- The timestamp a word written to TSIN leaves: bits [16:0] (10_state.md R31). -/
def tsOfWord (w : Word) : TimeStamp :=
  { start := w.extractLsb' 0 11, count := w.extractLsb' 11 6 }

/-- FRAME_x[j]: frame bits [32j+31 : 32j]; the bits past 143 read 0 (10_state.md R36, R38). -/
def frameWord (fr : Frame) (j : Fin 5) : Word := fr.extractLsb' (32 * j.val) 32

/-- The frame after a write of FRAME_x[j]; the bits past 143 do not exist (10_state.md R32, R36). -/
def setFrameWord (fr : Frame) (j : Fin 5) (w : Word) : Frame := fieldWrite fr (32 * j.val) w

/-- The register of index n (10_state.md R22). -/
def regOfIndex (n : Nat) : Reg :=
  if n = 0 then .cmd
  else if n = 1 then .status
  else if h : 2 ≤ n ∧ n ≤ 13 then .qin ⟨n - 2, by omega⟩
  else if n = 14 then .tsin
  else if h : 16 ≤ n ∧ n ≤ 20 then .frameIn ⟨n - 16, by omega⟩
  else if h : 24 ≤ n ∧ n ≤ 35 then .qout ⟨n - 24, by omega⟩
  else if n = 36 then .tsout
  else if h : 40 ≤ n ∧ n ≤ 44 then .frameOut ⟨n - 40, by omega⟩
  else .reserved

/-- The index of a register that has one of its own (10_state.md R22). -/
def indexOfReg : Reg → Option Nat
  | .cmd => some 0
  | .status => some 1
  | .qin k => some (2 + k.val)
  | .tsin => some 14
  | .frameIn j => some (16 + j.val)
  | .qout k => some (24 + k.val)
  | .tsout => some 36
  | .frameOut j => some (40 + j.val)
  | .reserved => none

/-- The I2F30 quaternion of four words: `sext_32` of each (43_commands.md R235, 40_fixedpoint.md R120). -/
def quatOfWords (q : Quat Word) : Quat Int := q.map sext

/-- The words of an I2F30 quaternion: `low_32` of each (43_commands.md R236). -/
def wordsOfQuat (q : Quat Int) : Quat Word := q.map (low 32)

/-- The operand snapshot of an accepted command (10_state.md R41, 43_commands.md R234). -/
def snapshot (op : Op) (s : State) : Pending :=
  match op with
  | .encode => .encode s.qin s.tsin
  | .decode => .decode s.frameIn

end Sys2Proof.Machine
end

