-- ==== Sys2Proof/Machine/Ops.lean ====
section
/-! DEFINITION. The operations that instructions and actions share: moving on in the schedule, the two
error conditions (60_exceptions.md R261, R262; the block has no trap entry and no return, R267), command
acceptance and completion, reset, and the HOST's bus accesses. -/

namespace Sys2Proof.Machine

/-! ### The schedule -/

/-- One turn is used up (LOG 1). -/
def advanceTurn (s : State) : State := { s with turns := s.turns.tail }

/-- The HOST's current operation is done, and its turn with it (LOG 1). -/
def advanceHost (s : State) : State := { s with prog := s.prog.tail, turns := s.turns.tail }

/-! ### Error conditions -/

/-- `raise CmdErr()`: CMDERR <- 1 and nothing else (60_exceptions.md R262). -/
def raiseCmdErr (s : State) : State := { s with status := cmdErrStatus s.status }

/-- `raise DecodeFail()`: DEC_FAIL <- 1, MODE <- 3, QOUT and TSOUT <- 0 (60_exceptions.md R261). -/
def raiseDecodeFail (s : State) : State :=
  { s with status := decFailStatus s.status, qout := zeroQuats, tsout := zeroTs }

/-! ### Command issue and completion -/

/-- Acceptance: the operand snapshot and the STATUS changes (43_commands.md R234). -/
def accept (op : Op) (s : State) : State :=
  { s with pending := some (snapshot op s), status := acceptStatus s.status }

/-- The issue of ENCODE or DECODE: dropped with CmdErr while BUSY = 1, else accepted (43_commands.md R234,
R240). -/
def issue (op : Op) (s : State) : State :=
  if s.status.busy then raiseCmdErr s else accept op s

/-- The last two effects of a completion, after its result writes (43_commands.md R239). -/
def complete (s : State) : State := { s with status := completeStatus s.status, pending := none }

/-- The result writes of an ENCODE (43_commands.md R235): FRAME_OUT and MODE, which is FRAME_OUT [1:0]. -/
def encodeResult (q : Triplet (Quat Word)) (ts : TimeStamp) (s : State) : State :=
  let fr := encFrame s.params (q.map quatOfWords) ts
  { s with frameOut := fr, status := modeStatus (Mode.ofCode (fieldRead fr 0 2)) s.status }

/-- The ENGINE's completion of an ENCODE (43_commands.md R235, R239). -/
def completeEncode (q : Triplet (Quat Word)) (ts : TimeStamp) (s : State) : State :=
  advanceTurn (complete (encodeResult q ts s))

/-- The result writes of a DECODE that does not fail (43_commands.md R236). -/
def decodeResult (m : Mode) (q : Triplet (Quat Int)) (ts : TimeStamp) (s : State) : State :=
  { s with qout := q.map wordsOfQuat, tsout := ts, status := decodedStatus m s.status }

/-- The ENGINE's completion of a DECODE that does not fail (43_commands.md R236, R239). -/
def completeDecode (m : Mode) (q : Triplet (Quat Int)) (ts : TimeStamp) (s : State) : State :=
  advanceTurn (complete (decodeResult m q ts s))

/-- The ENGINE's completion of a DECODE that fails (43_commands.md R236, R239). -/
def completeFail (s : State) : State := advanceTurn (complete (raiseDecodeFail s))

/-- Reset: every register 0, `pending` NONE; the HOST, the schedule and the parameters are not the
block's and stay (70_reset_and_hazards.md R290, R291; LOG 16). -/
def resetBlock (s : State) : State :=
  { s with
    status := resetStatus, qin := zeroQuats, tsin := zeroTs, frameIn := 0,
    qout := zeroQuats, tsout := zeroTs, frameOut := 0, pending := none }

/-! ### The register window -/

/-- What a register holds, as the word it reads as; CMD and the reserved indices read 0 (10_state.md R22 to
R38). -/
def readReg (r : Reg) (s : State) : Word :=
  match r with
  | .cmd => 0
  | .status => statusWord s.status
  | .qin k => regGet s.qin k
  | .tsin => tsWord s.tsin
  | .frameIn j => frameWord s.frameIn j
  | .qout k => regGet s.qout k
  | .tsout => tsWord s.tsout
  | .frameOut j => frameWord s.frameOut j
  | .reserved => 0

/-- A write to a register other than CMD: QIN, TSIN and FRAME_IN store it; it is ignored elsewhere
(10_state.md R30 to R32, R37 to R39). A write to CMD is a command issue, which is an instruction. -/
def writeReg (r : Reg) (v : Word) (s : State) : State :=
  match r with
  | .qin k => { s with qin := regSet s.qin k v }
  | .tsin => { s with tsin := tsOfWord v }
  | .frameIn j => { s with frameIn := setFrameWord s.frameIn j v }
  | .cmd => s
  | .status => s
  | .qout _ => s
  | .tsout => s
  | .frameOut _ => s
  | .reserved => s

/-- The bits of an output register that are not reserved, for a drawn read; none for a register that is
no output (70_reset_and_hazards.md R294, 10_state.md R38). -/
def drawMask (r : Reg) : Option Word :=
  match r with
  | .qout _ => some 0xFFFFFFFF
  | .tsout => some 0x0001FFFF
  | .frameOut j => if j = 4 then some 0x0000FFFF else some 0xFFFFFFFF
  | .cmd => none
  | .status => none
  | .qin _ => none
  | .tsin => none
  | .frameIn _ => none
  | .reserved => none

/-- The value a HOST read leaves in `rdata`: a fresh free value for an output register while BUSY = 1
(70_reset_and_hazards.md R294; LOG 5, LOG 14), else what the register holds (43_commands.md R243). -/
def hostRead (r : Reg) (s : State) : State :=
  match drawMask r with
  | some mask =>
    if s.status.busy then { s with rdata := Config.busyRead s.draws &&& mask, draws := s.draws + 1 }
    else { s with rdata := readReg r s }
  | none => { s with rdata := readReg r s }

/-- The register a bus access reaches, or why the access is refused (20_memory.md R67; LOG 10). -/
def busReg (p : Config.Params) (addr bytes : Nat) : Except Refusal Reg :=
  if bytes ≠ 4 then .error .busWidth
  else if addr < p.base ∨ p.base + 0xFF < addr then .error .busWindow
  else if addr % 4 ≠ 0 ∨ (addr - p.base) % 4 ≠ 0 then .error .busAlignment
  else .ok (regOfIndex ((addr - p.base) / 4))

/-- The byte at bus byte address BASE + a, for a platform that splits words (20_memory.md R68). -/
def windowByte (s : State) (a : Nat) : Byte :=
  (readReg (regOfIndex (a / 4)) s).extractLsb' (8 * (a % 4)) 8

end Sys2Proof.Machine
end

