-- ==== Sys2Proof/Machine/Commands.lean ====
section
/-! DEFINITION. The meanings of the four command words: what a HOST write to CMD does (43_commands.md R234
to R238, R240). Each moves past the HOST's write. CMD [31:2] is ignored (30_encoding.md R81). -/

namespace Sys2Proof.Machine

/-- NOP: no effect on any register or on `pending`, in every state (43_commands.md R237). -/
def execNop (_reserved : BitVec 30) (s : State) : Host.Outcome State Fault Refusal :=
  .next (advanceHost s)

/-- ENCODE: issued (43_commands.md R234, R235, R240); it completes by `completeEncode`. -/
def execEncode (_reserved : BitVec 30) (s : State) : Host.Outcome State Fault Refusal :=
  .next (advanceHost (issue .encode s))

/-- DECODE: issued (43_commands.md R234, R236, R240); it completes by the meaning of its frame. -/
def execDecode (_reserved : BitVec 30) (s : State) : Host.Outcome State Fault Refusal :=
  .next (advanceHost (issue .decode s))

/-- Reserved OP: CmdErr and nothing else, in every state (43_commands.md R238). -/
def execReservedOp3 (_reserved : BitVec 30) (s : State) : Host.Outcome State Fault Refusal :=
  .next (advanceHost (raiseCmdErr s))

end Sys2Proof.Machine
end

