-- ==== Sys2Proof/Machine/Frames.lean ====
section
/-! DEFINITION. The meanings of the four kinds of frame: what the ENGINE's completion of a DECODE of that
frame does (43_commands.md R231, R232, R236, R239). The slack bits are never read (R233). -/

namespace Sys2Proof.Machine

/-- Mode 0 (42_modes.md R196). -/
def execFrameIndividual (p : IndPayload) (ts : TimeStamp) (_slack : BitVec 2) (s : State) :
    Host.Outcome State Fault Refusal :=
  .next (completeDecode .individual (unpackInd s.params p) ts s)

/-- Mode 1 (42_modes.md R193). -/
def execFrameFirstLastDeltaMid (p : FLPayload) (ts : TimeStamp) (_slack : BitVec 2) (s : State) :
    Host.Outcome State Fault Refusal :=
  .next (completeDecode .firstLastDeltaMid (unpackFL s.params p) ts s)

/-- Mode 2 (42_modes.md R187). -/
def execFrameLastDeltaFirstDeltaMid (p : LDPayload) (ts : TimeStamp) (s : State) :
    Host.Outcome State Fault Refusal :=
  .next (completeDecode .lastDeltaFirstDeltaMid (unpackLD s.params p) ts s)

/-- Mode code 3: the decode failure, whatever the other bits (43_commands.md R232, R236; 60_exceptions.md
R261). -/
def execFrameUnknown (_rest : BitVec 142) (s : State) : Host.Outcome State Fault Refusal :=
  .next (completeFail s)

end Sys2Proof.Machine
end

