-- ==== Sys2Proof/Machine/Dispatch.lean ====
section
/-! DEFINITION. One arm per instruction. -/

namespace Sys2Proof.Machine

def exec (i : Instr) (s : State) : Host.Outcome State Fault Refusal :=
  match i with
  | .nop r => Sys2Proof.Machine.execNop r s
  | .encode r => Sys2Proof.Machine.execEncode r s
  | .decode r => Sys2Proof.Machine.execDecode r s
  | .reservedOp3 r => Sys2Proof.Machine.execReservedOp3 r s
  | .frameIndividual p ts k => Sys2Proof.Machine.execFrameIndividual p ts k s
  | .frameFirstLastDeltaMid p ts k => Sys2Proof.Machine.execFrameFirstLastDeltaMid p ts k s
  | .frameLastDeltaFirstDeltaMid p ts => Sys2Proof.Machine.execFrameLastDeltaFirstDeltaMid p ts s
  | .frameUnknown rest => Sys2Proof.Machine.execFrameUnknown rest s

end Sys2Proof.Machine
end

