-- ==== Sys2Proof/Machine/Fetch.lean ====
section
/-! DEFINITION. Finding what a step does: who acts (43_commands.md R243), and whether the action is an
instruction (a command word written to CMD, a frame the ENGINE completes) or another action. -/

namespace Sys2Proof.Machine

/-- Who acts: the head of the schedule; when it is used up the ENGINE, if it has a command, else the HOST,
so that every accepted command eventually completes (70_reset_and_hazards.md R297; LOG 2). -/
def currentTurn (s : State) : Turn :=
  match s.turns with
  | t :: _ => t
  | [] => if s.pending.isSome then .engine else .host

/-- One read of a POLL: the HOST goes on when the masked value is the one it waits for, else it will read
again (30_encoding.md R93). -/
def pollOnce (r : Reg) (mask value : Word) (s : State) : State :=
  let s' := hostRead r s
  if s'.rdata &&& mask = value then advanceHost s' else advanceTurn s'

/-- The HOST's turn: its next operation, or nothing when its program is at an end (LOG 17). A write to CMD is an
instruction; an access outside the contract is refused (20_memory.md R67). -/
def hostTurn (s : State) : Fetched :=
  match s.prog with
  | [] => .action (.next (advanceTurn s))
  | .read addr bytes :: _ =>
    match busReg s.params addr bytes with
    | .error r => .action (.refused r)
    | .ok reg => .action (.next (advanceHost (hostRead reg s)))
  | .write addr bytes v :: _ =>
    match busReg s.params addr bytes with
    | .error r => .action (.refused r)
    | .ok .cmd => .instr (decodeCmd v)
    | .ok reg => .action (.next (advanceHost (writeReg reg v s)))
  | .poll addr mask value :: _ =>
    match busReg s.params addr 4 with
    | .error r => .action (.refused r)
    | .ok reg => .action (.next (pollOnce reg mask value s))

/-- The ENGINE's turn: Complete(), enabled iff `pending` is not NONE (43_commands.md R239, R243); with nothing
pending the turn is idle (LOG 17). A DECODE runs the instruction its snapshot frame is (LOG 12). -/
def engineTurn (s : State) : Fetched :=
  match s.pending with
  | none => .action (.next (advanceTurn s))
  | some (.encode q ts) => .action (.next (completeEncode q ts s))
  | some (.decode fr) => .instr (decodeFrame s.params.layout fr)

/-- What the next step does. -/
def fetch (s : State) : Fetched :=
  match currentTurn s with
  | .host => hostTurn s
  | .engine => engineTurn s
  | .reset => .action (.next (advanceTurn (resetBlock s)))

/-- `s` with a write of the command word `w` as the HOST's next operation, on the HOST's turn. -/
def placeCommand (s : State) (w : Word) : State :=
  { s with prog := .write s.params.base 4 w :: s.prog, turns := .host :: s.turns }

/-- `s` with a DECODE of the frame `fr` in flight, on the ENGINE's turn. -/
def placeFrame (s : State) (fr : Frame) : State :=
  { s with
    pending := some (.decode fr), status := { s.status with busy := true, done := false, decFail := false },
    turns := .engine :: s.turns }

/-- `s` with an encoded object placed where the next step finds it. -/
def placeObject (s : State) (e : Encoded) : State :=
  match e with
  | .cmd w => placeCommand s w
  | .frame fr => placeFrame s fr

end Sys2Proof.Machine
end

