-- ==== Sys2Proof/Machine/Step.lean ====
section
/-! DEFINITION. One step: one action of the transition system of 43_commands.md R243. -/

namespace Sys2Proof.Machine

/-- One action: the instruction fetched, run by `exec`, or the other action's outcome. -/
def step (s : State) : Host.Outcome State Fault Refusal :=
  match fetch s with
  | .instr i => exec i s
  | .action o => o

/-- `s` with the instruction of an opcode-table word placed where `step` fetches next: a command word as
the HOST's next write to CMD, a frame as the snapshot of a DECODE in flight (LOG 3, LOG 11). -/
def State.withFetchWord (s : State) (nbits w : Nat) : State :=
  match objectOfBytes (tableBytes nbits w).1 (tableBytes nbits w).2 with
  | .ok e => placeObject s e
  | .error _ => s

end Sys2Proof.Machine
end

