-- ==== Sys2Proof/Safety.lean ====
section
/-! DEFINITION. What counts as a legal state and a legal HOST program, in the terms the statements use. -/

namespace Sys2Proof.Machine

/-- The control invariant of the block: BUSY says that a command is pending (10_state.md R40); BUSY and
DONE never hold together (R25); DEC_FAIL says that the completed operation was a failed DECODE, so DONE is
1, MODE is 3 and QOUT and TSOUT are 0 (43_commands.md R236); DONE with MODE 3 is that failure and no other
completion (10_state.md R29); FRAME_OUT holds no mode code 3 (R29). -/
abbrev controlOk (s : State) : Prop :=
  s.status.busy = s.pending.isSome
  ∧ ¬ (s.status.busy = true ∧ s.status.done = true)
  ∧ (s.status.decFail = true →
      s.status.done = true ∧ s.status.mode = .unknown ∧ s.qout = zeroQuats ∧ s.tsout = zeroTs)
  ∧ (s.status.done = true → s.status.mode = .unknown → s.status.decFail = true)
  ∧ fieldRead s.frameOut 0 2 ≠ Mode.unknown.code

/-- The HOST operation keeps to the interface contract (20_memory.md R67). -/
def inContract (p : Config.Params) (op : HostOp) : Bool :=
  match op with
  | .read addr bytes => (busReg p addr bytes).toBool
  | .write addr bytes _ => (busReg p addr bytes).toBool
  | .poll addr _ _ => (busReg p addr 4).toBool

/-- A safe run makes only accesses inside the contract. -/
abbrev programOk (s : State) : Prop := ∀ op ∈ s.prog, inContract s.params op = true

/-- An I2F30 raw integer (40_fixedpoint.md R120). -/
abbrev isI2F30 (r : Int) : Prop := -2 ^ 31 ≤ r ∧ r ≤ 2 ^ 31 - 1

/-- Every component is an I2F30 raw integer. -/
abbrev quatI2F30 (q : Quat Int) : Prop :=
  isI2F30 q.c0 ∧ isI2F30 q.c1 ∧ isI2F30 q.c2 ∧ isI2F30 q.c3

/-- The exact sum of a quaternion's raw squares; real 1 is 2^60 (41_elision.md R167). -/
abbrev normSq (q : Quat Int) : Int := q.c0 ^ 2 + q.c1 ^ 2 + q.c2 ^ 2 + q.c3 ^ 2

/-- A quaternion of exactly unit norm: its raw squares sum to 2^60 (41_elision.md R167). Only 24 raw
quaternions are: 2^30 on one axis, or 2^29 on all four, with any signs. -/
abbrev isUnit (q : Quat Int) : Prop := normSq q = 2 ^ 60

/-- A quaternion no longer than unit norm as 40_fixedpoint.md R120 means it, "sum of squares ≈ 1". DESIGN CHOICE
(LOG 18): the spec gives no tolerance; here it is 2^-21 above 1, and there is no lower bound. -/
abbrev atMostUnit (q : Quat Int) : Prop := normSq q ≤ 2 ^ 60 + 2 ^ 39

end Sys2Proof.Machine
end

