-- ==== Sys2Proof/Certificates/Slice0/Obligations.lean ====
section
/-! DEFINITION. The statements for the provers. Each docstring names the rules of spec/ it formalises. -/

section
open Sys2Proof Sys2Proof.Machine

/-! ### Encodings -/

/-- Words written out from the tables of 30_encoding.md R81, R83, R88 and R89 decode to their instructions. -/
def Obligations.WrittenWordsDecode : Prop :=
  decodeCmd 0x00000000#32 = .nop 0
  ∧ decodeCmd 0xFFFFFFFD#32 = .encode 0x3FFFFFFF#30
  ∧ decodeCmd 0x00000002#32 = .decode 0
  ∧ decodeCmd 0x00000003#32 = .reservedOp3 0
  -- frame bytes 02 00 … 00 80 D2 AA: mode 2, all fields 0, START 1445, COUNT 42
  ∧ decodeFrame standardLayout 0xAAD280000000000000000000000000000002#144 =
      .frameLastDeltaFirstDeltaMid
        { idx := 0, l := { v0 := 0, v1 := 0, v2 := 0 }, fd := { v0 := 0, v1 := 0, v2 := 0 },
          md := { v0 := 0, v1 := 0, v2 := 0 } }
        { start := 1445, count := 42 }
  -- mode 1 with SH (frame bit 100) and both slack bits set, everything else 0
  ∧ decodeFrame standardLayout 0xC00000000010000000000000000000000001#144 =
      .frameFirstLastDeltaMid
        { idx := 0, f := { v0 := 0, v1 := 0, v2 := 0 }, l := { v0 := 0, v1 := 0, v2 := 0 }, sh := 1,
          d := { v0 := 0, v1 := 0, v2 := 0 } }
        { start := 0, count := 0 } 3

/-- 30_encoding.md R81: the operation is selected by word[1:0] alone. -/
def Obligations.CommandSelectedByLowTwoBits : Prop :=
  (∀ w : Word,
    (w.extractLsb' 0 2 = 0 → decodeCmd w = .nop (w.extractLsb' 2 30))
    ∧ (w.extractLsb' 0 2 = 1 → decodeCmd w = .encode (w.extractLsb' 2 30))
    ∧ (w.extractLsb' 0 2 = 2 → decodeCmd w = .decode (w.extractLsb' 2 30))
    ∧ (w.extractLsb' 0 2 = 3 → decodeCmd w = .reservedOp3 (w.extractLsb' 2 30)))
  ∧ ∀ (w w' : Word) (s : State), w.extractLsb' 0 2 = w'.extractLsb' 0 2 →
      exec (decodeCmd w) s = exec (decodeCmd w') s

/-- Decoding the encoding of any instruction gives it back, in every legal PAYLOAD_LAYOUT (30_encoding.md
R80 to R90). -/
def Obligations.DecodeOfEncodeIsTheInstruction : Prop :=
  ∀ lay : Config.Layout, layoutOk lay = true → ∀ i : Instr, decode lay (encode lay i) = i

/-- Encoding the decoding of any command word or frame gives it back: the layouts leave no bit out, and
two different frames are two different instructions (30_encoding.md R80 to R90). -/
def Obligations.EncodeOfDecodeIsTheObject : Prop :=
  ∀ lay : Config.Layout, layoutOk lay = true → ∀ e : Encoded, encode lay (decode lay e) = e

/-- A string of bytes decodes iff it has the length of its object, and an object's bytes read back as it
(30_encoding.md R80, R82, R92; 20_memory.md R60). -/
def Obligations.BytesDecodeByLengthAlone : Prop :=
  (∀ (lay : Config.Layout) (bytes : List Byte),
    ((∃ i, decodeBytes lay .cmd bytes = .ok i) ↔ bytes.length = 4)
    ∧ ((∃ i, decodeBytes lay .frame bytes = .ok i) ↔ bytes.length = 18))
  ∧ (∀ w : Word, objectOfBytes .cmd (Encoded.cmd w).bytes = .ok (.cmd w))
  ∧ (∀ fr : Frame, objectOfBytes .frame (Encoded.frame fr).bytes = .ok (.frame fr)
      ∧ ∀ b : Nat, b < 18 → (Encoded.frame fr).bytes[b]? = some (frameByte fr b))

/-- The positions of the default PAYLOAD_LAYOUT are the tables of 30_encoding.md R87, R88 and R89. -/
def Obligations.DefaultPositionsAreTheTables : Prop :=
  (∀ s : Fin 3, indOffset standardLayout (.idx s) = 2 + 41 * s.val)
  ∧ (∀ s j : Fin 3, indOffset standardLayout (.c s j) = 4 + 41 * s.val + 13 * j.val)
  ∧ flOffset standardLayout .idx = 2
  ∧ (∀ j : Fin 3, flOffset standardLayout (.f j) = 4 + 16 * j.val)
  ∧ (∀ j : Fin 3, flOffset standardLayout (.l j) = 52 + 16 * j.val)
  ∧ flOffset standardLayout .sh = 100
  ∧ (∀ j : Fin 3, flOffset standardLayout (.d j) = 101 + 8 * j.val)
  ∧ ldOffset standardLayout .idx = 2
  ∧ (∀ j : Fin 3, ldOffset standardLayout (.l j) = 4 + 21 * j.val)
  ∧ (∀ j : Fin 3, ldOffset standardLayout (.fd j) = 67 + 13 * j.val)
  ∧ (∀ j : Fin 3, ldOffset standardLayout (.md j) = 106 + 7 * j.val)

/-- In every legal layout the fields of a payload are disjoint and lie between the mode selector and the
timestamp (20_memory.md R62, 30_encoding.md R84, R85; what a legal layout is: LOG 9). -/
def Obligations.LegalLayoutsKeepFieldsApart : Prop :=
  ∀ lay : Config.Layout, layoutOk lay = true →
    (∀ f g : IndField, f ≠ g →
      indOffset lay f + f.width ≤ indOffset lay g ∨ indOffset lay g + g.width ≤ indOffset lay f)
    ∧ (∀ f : IndField, 2 ≤ indOffset lay f ∧ indOffset lay f + f.width ≤ 125)
    ∧ (∀ f g : FLField, f ≠ g →
      flOffset lay f + f.width ≤ flOffset lay g ∨ flOffset lay g + g.width ≤ flOffset lay f)
    ∧ (∀ f : FLField, 2 ≤ flOffset lay f ∧ flOffset lay f + f.width ≤ 125)
    ∧ (∀ f g : LDField, f ≠ g →
      ldOffset lay f + f.width ≤ ldOffset lay g ∨ ldOffset lay g + g.width ≤ ldOffset lay f)
    ∧ (∀ f : LDField, 2 ≤ ldOffset lay f ∧ ldOffset lay f + f.width ≤ 127)

/-- 10_state.md R36: byte b of a frame is FRAME_x[b div 4] bits [8(b mod 4)+7 : 8(b mod 4)], and frame bit
k is bit k mod 32 of FRAME_x[k div 32], for FRAME_IN and FRAME_OUT. -/
def Obligations.FrameBytesAndBitsInTheRegisters : Prop :=
  ∀ (s : State) (j : Fin 5),
    (∀ b : Nat, b < 18 → j.val = b / 4 →
      (readReg (.frameIn j) s).extractLsb' (8 * (b % 4)) 8 = frameByte s.frameIn b
      ∧ (readReg (.frameOut j) s).extractLsb' (8 * (b % 4)) 8 = frameByte s.frameOut b)
    ∧ (∀ k : Nat, k < 144 → j.val = k / 32 →
      (readReg (.frameIn j) s).getLsbD (k % 32) = s.frameIn.getLsbD k
      ∧ (readReg (.frameOut j) s).getLsbD (k % 32) = s.frameOut.getLsbD k)
    ∧ (readReg (.frameOut 0) s).extractLsb' 0 2 = fieldRead s.frameOut 0 2

/-- 20_memory.md R61: FieldRead is the sum of the frame's bits at their places. -/
def Obligations.FieldReadIsTheSumOfItsBits : Prop :=
  ∀ (fr : Frame) (off W : Nat), 1 ≤ W → W ≤ 32 → off + W ≤ 144 →
    (fieldRead fr off W).toNat
      = ∑ j ∈ Finset.range W, (if (frameByte fr ((off + j) / 8)).getLsbD ((off + j) % 8) then 2 ^ j else 0)

/-! ### Fixed-point arithmetic -/

/-- 40_fixedpoint.md R127: with toward_zero, quantize rounds half away from zero, with an error of at most
half a ULP. -/
def Obligations.QuantizeRoundsHalfAwayFromZero : Prop :=
  ∀ (N : Nat) (r : Int), N = 12 ∨ N = 15 ∨ N = 20 → isI2F30 r →
    quantize .towardZero N r = r.sign * ((|r| + 2 ^ (29 - N)) / 2 ^ (30 - N))
    ∧ |quantize .towardZero N r * 2 ^ (30 - N) - r| ≤ 2 ^ (29 - N)

/-- 40_fixedpoint.md R133: the shift form of fits_within is a range test. -/
def Obligations.FitsWithinIsARangeTest : Prop :=
  ∀ (v : Int) (W : Nat), isI2F30 v → 1 ≤ W → W ≤ 32 →
    (fitsWithin v W = true ↔ -2 ^ (W - 1) ≤ v ∧ v ≤ 2 ^ (W - 1) - 1)

/-- 40_fixedpoint.md R134: the pre-shifted delta fits 8 bits exactly when the delta fits 10, and the
decoder's inverse gives back the delta less its remainder by 4. -/
def Obligations.PreshiftFitsEightIffTen : Prop :=
  ∀ d : Int, isI2F30 d →
    (fitsWithin (preshift d) 8 = fitsWithin d 10)
    ∧ unshift (preshift d) = d - d % 4
    ∧ 0 ≤ d % 4 ∧ d % 4 ≤ 3

/-- 40_fixedpoint.md R131: the two roundings of avg, away from the 32-bit ends. They agree but for
negative even sums, where the shift procedure gives one less; operands in either order agree. -/
def Obligations.AverageModesAgreeButForNegativeEvenSums : Prop :=
  ∀ a b : Int, -2 ^ 31 < a + b → a + b < 2 ^ 31 - 1 →
    avg .halfAway a b = (a + b).sign * ((|a + b| + 1) / 2)
    ∧ (0 ≤ a + b ∨ (a + b) % 2 = 1 → avg .shift a b = avg .halfAway a b)
    ∧ (a + b < 0 → (a + b) % 2 = 0 → avg .shift a b = avg .halfAway a b - 1)
    ∧ avg .shift a b = avg .shift b a ∧ avg .halfAway a b = avg .halfAway b a

/-- 00_scope.md R10: isqrt(n) is the largest m with m·m ≤ n. -/
def Obligations.IsqrtIsTheFloorRoot : Prop :=
  ∀ n : Nat, isqrt n * isqrt n ≤ n ∧ n < (isqrt n + 1) * (isqrt n + 1)

/-! ### Elision and reconstruction -/

/-- 41_elision.md R165: with the default root, recon_d is the exact floor root of the clamped radicand, from
0 to 2^30. -/
def Obligations.MissingComponentIsTheClampedFloorRoot : Prop :=
  ∀ v : Vec3 Int,
    (2 ^ 60 - (v.v0 ^ 2 + v.v1 ^ 2 + v.v2 ^ 2) ≤ 0 → reconD .floor v = 0)
    ∧ (0 < 2 ^ 60 - (v.v0 ^ 2 + v.v1 ^ 2 + v.v2 ^ 2) →
        reconD .floor v ^ 2 ≤ 2 ^ 60 - (v.v0 ^ 2 + v.v1 ^ 2 + v.v2 ^ 2)
        ∧ 2 ^ 60 - (v.v0 ^ 2 + v.v1 ^ 2 + v.v2 ^ 2) < (reconD .floor v + 1) ^ 2)
    ∧ 0 ≤ reconD .floor v ∧ reconD .floor v ≤ 2 ^ 30

/-- Under every RECON_SQRT the result is non-negative, at most 2^30, and 0 where the clamp applies
(93_implementation_defined.md 4; LOG 7 for the roots other than the default). -/
def Obligations.EveryRootIsClampedAndBounded : Prop :=
  ∀ (alg : Config.ReconSqrt) (v : Vec3 Int),
    0 ≤ reconD alg v ∧ reconD alg v ≤ 2 ^ 30
    ∧ (2 ^ 60 ≤ v.v0 ^ 2 + v.v1 ^ 2 + v.v2 ^ 2 → reconD alg v = 0)

/-- 41_elision.md R160: max_abs_idx is the index of maximum absolute value, the lowest on a tie. -/
def Obligations.LargestComponentLowestIndex : Prop :=
  ∀ q : Quat Int,
    (∀ c : Fin 4, |q.get c| ≤ |q.get (maxAbsIdx q)|)
    ∧ ∀ c : Fin 4, c < maxAbsIdx q → |q.get c| < |q.get (maxAbsIdx q)|

/-- 41_elision.md R163: the bounds of elision at the max-abs index, against the sum of the quaternion's own squares,
and against 1/2 and 1/√2 for a unit quaternion: the lower bound for every sum from 2^60 up, the upper for every sum
up to 2^60. No component is -2^31, whose negation wraps (R162). -/
def Obligations.UnitElisionBounds : Prop :=
  ∀ q : Quat Int, (∀ c : Fin 4, -2 ^ 31 < q.get c ∧ q.get c < 2 ^ 31) →
    esign q (maxAbsIdx q) * q.get (maxAbsIdx q) = |q.get (maxAbsIdx q)|
    ∧ normSq q ≤ 4 * q.get (maxAbsIdx q) ^ 2
    ∧ (2 ^ 60 ≤ normSq q → 2 ^ 29 ≤ |q.get (maxAbsIdx q)|)
    ∧ ∀ j : Fin 3,
        |(toQuat3 q (maxAbsIdx q)).get j| ≤ |q.get (maxAbsIdx q)|
        ∧ 2 * (toQuat3 q (maxAbsIdx q)).get j ^ 2
            ≤ (toQuat3 q (maxAbsIdx q)).get j ^ 2 + q.get (maxAbsIdx q) ^ 2
        ∧ (toQuat3 q (maxAbsIdx q)).get j ^ 2 + q.get (maxAbsIdx q) ^ 2 ≤ normSq q
        ∧ (normSq q ≤ 2 ^ 60 → 2 * (toQuat3 q (maxAbsIdx q)).get j ^ 2 ≤ 2 ^ 60)

/-- 41_elision.md R167, R164: reconstruct after to_quat3 gives back esign(q, i)·q at the retained indices, under every
root; with the default root the missing component is isqrt(max(0, 2^60 - the sum of the other squares)), and so
esign(q, i)·q for an exactly unit quaternion. No component is -2^31, whose negation wraps (R162). -/
def Obligations.ReconstructInvertsElision : Prop :=
  ∀ (q : Quat Int) (i : Fin 4),
    (∀ c : Fin 4, -2 ^ 31 < q.get c ∧ q.get c < 2 ^ 31) →
    (∀ (alg : Config.ReconSqrt) (c : Fin 4), c ≠ i →
      (reconstruct alg i (toQuat3 q i)).get c = esign q i * q.get c)
    ∧ (reconstruct .floor i (toQuat3 q i)).get i = isqrt (2 ^ 60 - (normSq q - q.get i ^ 2)).toNat
    ∧ (isUnit q → reconstruct .floor i (toQuat3 q i) = q.map fun x => esign q i * x)

/-- 41_elision.md R166: every decoded quaternion is non-negative at its missing index, under every choice of
the parameters (LOG 7 for the roots other than the default). -/
def Obligations.DecodedMissingComponentIsNonNegative : Prop :=
  ∀ (p : Config.Params) (s : Fin 3),
    (∀ x : LDPayload, 0 ≤ ((unpackLD p x).get s).get (idxOf x.idx))
    ∧ (∀ x : FLPayload, 0 ≤ ((unpackFL p x).get s).get (idxOf x.idx))
    ∧ (∀ x : IndPayload, 0 ≤ ((unpackInd p x).get s).get (idxOf (x.samples.get s).idx))

/-! ### Packing and unpacking -/

/-- 40_fixedpoint.md R137: no wrap takes effect on decode. For every payload, F, M, L are the unwrapped sums
and differences, and the widening is the exact product. -/
def Obligations.DecodeArithmeticNeverWraps : Prop :=
  ∀ (p : Config.Params) (j : Fin 3),
    (∀ x : LDPayload,
      let l := (x.l.get j).toInt
      let f := l - (x.fd.get j).toInt
      let a := match p.avgMode with
        | .shift => (f + l + (f + l).sign) / 2
        | .halfAway => (f + l + (f + l).sign).tdiv 2
      (samplesLD p x).last.get j = l ∧ (samplesLD p x).first.get j = f
      ∧ (samplesLD p x).mid.get j = (x.md.get j).toInt + a
      ∧ ∀ s : Fin 3, dequantize 20 (((samplesLD p x).get s).get j) = ((samplesLD p x).get s).get j * 2 ^ 10)
    ∧ (∀ x : FLPayload,
      let l := (x.l.get j).toInt
      let f := (x.f.get j).toInt
      let d := if x.sh = 1 then (x.d.get j).toInt * 4 else (x.d.get j).toInt
      let a := match p.avgMode with
        | .shift => (f + l + (f + l).sign) / 2
        | .halfAway => (f + l + (f + l).sign).tdiv 2
      (samplesFL p x).last.get j = l ∧ (samplesFL p x).first.get j = f
      ∧ (samplesFL p x).mid.get j = d + a
      ∧ ∀ s : Fin 3, dequantize 15 (((samplesFL p x).get s).get j) = ((samplesFL p x).get s).get j * 2 ^ 15)
    ∧ ∀ b : BitVec 13, dequantize 12 (extract b) = b.toInt * 2 ^ 18

/-- 42_modes.md R197: the square of a retained component is at most half the sum of the quaternion's squares, so for
a unit quaternion at most 1/2, and every Individual component, with the default quantize, is at most 2896 in
magnitude, so it fits its 13-bit field. Up to which sum: LOG 18; every sum up to 2^60 is among them. -/
def Obligations.IndividualAlwaysFitsUnitInputs : Prop :=
  ∀ (q : Quat Int) (j : Fin 3), atMostUnit q →
    2 * ((toQuat3 q (maxAbsIdx q)).get j) ^ 2 ≤ normSq q
    ∧ (normSq q ≤ 2 ^ 60 → 2 * ((toQuat3 q (maxAbsIdx q)).get j) ^ 2 ≤ 2 ^ 60)
    ∧ |quantize .towardZero 12 ((toQuat3 q (maxAbsIdx q)).get j)| ≤ 2896
    ∧ (embed (quantize .towardZero 12 ((toQuat3 q (maxAbsIdx q)).get j)) 13).toInt
        = quantize .towardZero 12 ((toQuat3 q (maxAbsIdx q)).get j)

/-- 42_modes.md R198, with the default quantize: the bounds of the fields the encoder writes without a range
test, for inputs of at most unit norm (LOG 18). The rule's strict bound 28378 for F and L is itself reached by
rounding. -/
def Obligations.UnitFieldsStayInsideTheirWidths : Prop :=
  ∀ (p : Config.Params) (q : Triplet (Quat Int)) (j : Fin 3), p.quantTrunc = .towardZero →
    quatI2F30 q.first → quatI2F30 q.mid → quatI2F30 q.last →
    (atMostUnit q.mid → okLD p (samplesAt p 20 q) = true →
      |(samplesAt p 20 q).last.get j| < 743568)
    ∧ (atMostUnit q.first → atMostUnit q.last → gateFL q (sharedIdx q) = true →
      |(samplesAt p 15 q).first.get j| ≤ 28378 ∧ |(samplesAt p 15 q).last.get j| ≤ 28378)

/-- 42_modes.md R200, R191: which mode the frame of ENC_FRAME has, and what acceptance of mode 1 is. -/
def Obligations.ModeIsTheFirstThatFits : Prop :=
  ∀ (p : Config.Params) (q : Triplet (Quat Int)) (ts : TimeStamp),
    let idx := sharedIdx q
    let ld := samplesAt p 20 q
    let fl := samplesAt p 15 q
    (fieldRead (encFrame p q ts) 0 2 = 2 ↔ okLD p ld = true)
    ∧ (fieldRead (encFrame p q ts) 0 2 = 1 ↔ okLD p ld = false ∧ okFL p q idx fl = true)
    ∧ (fieldRead (encFrame p q ts) 0 2 = 0 ↔
        okLD p ld = false ∧ (gateFL q idx = false ∨ vecFits (shiftedDelta (midDelta p fl)) 8 = false))
    ∧ (okFL p q idx fl = true ↔
        2 ^ 29 < |q.first.get idx| ∧ 2 ^ 29 < |q.last.get idx| ∧ vecFits (midDelta p fl) 10 = true)

/-- Every frame ENC_FRAME makes decodes to the mode, the fields and the timestamp it was made of, with slack
bits 0, for every triplet and in every legal layout (43_commands.md R230, R231, R242; 30_encoding.md R86). -/
def Obligations.EncodedFrameDecodesToItsFields : Prop :=
  ∀ (p : Config.Params) (q : Triplet (Quat Int)) (ts : TimeStamp), layoutOk p.layout = true →
    decodeFrame p.layout (encFrame p q ts) =
      match selectMode p q with
      | .lastDeltaFirstDeltaMid =>
        .frameLastDeltaFirstDeltaMid (packLD p (sharedIdx q) (samplesAt p 20 q)) ts
      | .firstLastDeltaMid => .frameFirstLastDeltaMid (packFL p (sharedIdx q) (samplesAt p 15 q)) ts 0
      | _ => .frameIndividual (packInd p q) ts 0

/-- 42_modes.md R202, mode 2: the decoder's F, M, L equal the encoder's, for a mid sample of at most unit norm (LOG 18),
under every choice of QUANT_TRUNC and AVG_MODE. -/
def Obligations.RoundTripLastDeltaFirstDeltaMid : Prop :=
  ∀ (p : Config.Params) (q : Triplet (Quat Int)), quatI2F30 q.first → atMostUnit q.mid → quatI2F30 q.last →
    okLD p (samplesAt p 20 q) = true →
    samplesLD p (packLD p (sharedIdx q) (samplesAt p 20 q)) = samplesAt p 20 q

/-- 42_modes.md R202, mode 1: F and L are exact; M is exact when SH = 0, and D mod 4 below when SH = 1, for
first and last samples of at most unit norm (LOG 18), under every choice of QUANT_TRUNC and AVG_MODE. -/
def Obligations.RoundTripFirstLastDeltaMid : Prop :=
  ∀ (p : Config.Params) (q : Triplet (Quat Int)), atMostUnit q.first → quatI2F30 q.mid → atMostUnit q.last →
    okFL p q (sharedIdx q) (samplesAt p 15 q) = true →
    let x := samplesAt p 15 q
    let d := midDelta p x
    samplesFL p (packFL p (sharedIdx q) x) =
      { first := x.first
        mid := x.mid.zipWith (fun m d' => if shFlag d then m - d' % 4 else m) d
        last := x.last }

/-- 42_modes.md R202, mode 0: the decoder's C_s equal the encoder's, for samples of at most unit norm (LOG 18), under
every choice of QUANT_TRUNC. -/
def Obligations.RoundTripIndividual : Prop :=
  ∀ (p : Config.Params) (q : Quat Int), atMostUnit q →
    idxOf (packSample p q).idx = maxAbsIdx q
    ∧ (packSample p q).c.map extract = (toQuat3 q (maxAbsIdx q)).map (quantize p.quantTrunc 12)

/-- 43_commands.md R233: two frames of mode 0 or 1 that differ only in bits 142 and 143 decode alike. -/
def Obligations.SlackBitsNeverAffectADecode : Prop :=
  ∀ (lay : Config.Layout) (fr fr' : Frame) (s : State), layoutOk lay = true →
    fieldRead fr 0 2 = 0 ∨ fieldRead fr 0 2 = 1 →
    (∀ k : Nat, k < 142 → fr.getLsbD k = fr'.getLsbD k) →
    exec (decodeFrame lay fr) s = exec (decodeFrame lay fr') s

/-! ### The instructions -/

/-- 43_commands.md R237: NOP completes in every state and changes no register and not `pending`. -/
def Obligations.NopChangesNothing : Prop :=
  ∀ (r : BitVec 30) (s : State),
    exec (.nop r) s = .next { s with prog := s.prog.tail, turns := s.turns.tail }

/-- ENCODE is accepted when BUSY = 0: the snapshot is QIN and TSIN, and only STATUS changes beside
`pending` (43_commands.md R234, 10_state.md R41). -/
def Obligations.EncodeIsAcceptedWhenIdle : Prop :=
  ∀ (r : BitVec 30) (s : State), s.status.busy = false →
    exec (.encode r) s = .next { s with
      pending := some (.encode s.qin s.tsin)
      status := { busy := true, done := false, decFail := false, cmdErr := false, mode := s.status.mode }
      prog := s.prog.tail
      turns := s.turns.tail }

/-- DECODE is accepted when BUSY = 0: the snapshot is FRAME_IN, and only STATUS changes beside `pending`
(43_commands.md R234, 10_state.md R41). -/
def Obligations.DecodeIsAcceptedWhenIdle : Prop :=
  ∀ (r : BitVec 30) (s : State), s.status.busy = false →
    exec (.decode r) s = .next { s with
      pending := some (.decode s.frameIn)
      status := { busy := true, done := false, decFail := false, cmdErr := false, mode := s.status.mode }
      prog := s.prog.tail
      turns := s.turns.tail }

/-- 43_commands.md R240: ENCODE and DECODE while BUSY = 1 are dropped; CMDERR is set and nothing else, and
the ENGINE's turn that follows does what it would have done without the write, with its own operands. -/
def Obligations.CommandWhileBusyIsDropped : Prop :=
  ∀ (r : BitVec 30) (s : State), s.status.busy = true →
    let dropped : State := { s with
      status := { s.status with cmdErr := true }, prog := s.prog.tail, turns := s.turns.tail }
    let unwritten : State := { s with turns := s.turns.tail }
    exec (.encode r) s = .next dropped ∧ exec (.decode r) s = .next dropped
    ∧ (currentTurn unwritten = .engine → ∃ c, step unwritten = .next c
        ∧ step dropped = .next { c with status := { c.status with cmdErr := true }, prog := s.prog.tail })

/-- 43_commands.md R238: a reserved OP sets CMDERR and changes nothing else, in every state, and the ENGINE's
turn that follows does what it would have done without the write. -/
def Obligations.ReservedOpSetsCmdErrOnly : Prop :=
  ∀ (r : BitVec 30) (s : State),
    let after : State := { s with
      status := { s.status with cmdErr := true }, prog := s.prog.tail, turns := s.turns.tail }
    let unwritten : State := { s with turns := s.turns.tail }
    exec (.reservedOp3 r) s = .next after
    ∧ (currentTurn unwritten = .engine → ∃ c, step unwritten = .next c
        ∧ step after = .next { c with status := { c.status with cmdErr := true }, prog := s.prog.tail })

/-- A mode 0 frame completes its DECODE in every state, for every payload (42_modes.md R196; 43_commands.md
R236, R239). -/
def Obligations.IndividualFrameCompletes : Prop :=
  ∀ (p : IndPayload) (ts : TimeStamp) (k : BitVec 2) (s : State),
    let q (x : IndSample) : Quat Word :=
      (reconstruct s.params.reconSqrt x.idx.toFin
        { v0 := wrap32 (x.c.v0.toInt * 2 ^ 18)
          v1 := wrap32 (x.c.v1.toInt * 2 ^ 18)
          v2 := wrap32 (x.c.v2.toInt * 2 ^ 18) }).map (BitVec.ofInt 32)
    exec (.frameIndividual p ts k) s = .next { s with
      qout := { first := q p.samples.first, mid := q p.samples.mid, last := q p.samples.last }
      tsout := ts
      status := { busy := false, done := true, decFail := false, cmdErr := s.status.cmdErr, mode := .individual }
      pending := none
      turns := s.turns.tail }

/-- A mode 1 frame completes its DECODE in every state, for every payload (42_modes.md R193; 43_commands.md
R236, R239). -/
def Obligations.FirstLastDeltaMidFrameCompletes : Prop :=
  ∀ (p : FLPayload) (ts : TimeStamp) (k : BitVec 2) (s : State),
    let mid (f l : BitVec 16) (e : BitVec 8) : Int :=
      add (if p.sh = 1 then wrap32 (e.toInt * 4) else e.toInt) (avg s.params.avgMode f.toInt l.toInt)
    let q (a b c : Int) : Quat Word :=
      (reconstruct s.params.reconSqrt p.idx.toFin
        { v0 := wrap32 (a * 2 ^ 15), v1 := wrap32 (b * 2 ^ 15), v2 := wrap32 (c * 2 ^ 15) }).map (BitVec.ofInt 32)
    exec (.frameFirstLastDeltaMid p ts k) s = .next { s with
      qout :=
        { first := q p.f.v0.toInt p.f.v1.toInt p.f.v2.toInt
          mid := q (mid p.f.v0 p.l.v0 p.d.v0) (mid p.f.v1 p.l.v1 p.d.v1) (mid p.f.v2 p.l.v2 p.d.v2)
          last := q p.l.v0.toInt p.l.v1.toInt p.l.v2.toInt }
      tsout := ts
      status :=
        { busy := false, done := true, decFail := false, cmdErr := s.status.cmdErr, mode := .firstLastDeltaMid }
      pending := none
      turns := s.turns.tail }

/-- A mode 2 frame completes its DECODE in every state, for every payload (42_modes.md R187; 43_commands.md
R236, R239). -/
def Obligations.LastDeltaFirstDeltaMidFrameCompletes : Prop :=
  ∀ (p : LDPayload) (ts : TimeStamp) (s : State),
    let first (l : BitVec 21) (fd : BitVec 13) : Int := sub l.toInt fd.toInt
    let mid (l : BitVec 21) (fd : BitVec 13) (md : BitVec 7) : Int :=
      add md.toInt (avg s.params.avgMode (first l fd) l.toInt)
    let q (a b c : Int) : Quat Word :=
      (reconstruct s.params.reconSqrt p.idx.toFin
        { v0 := wrap32 (a * 2 ^ 10), v1 := wrap32 (b * 2 ^ 10), v2 := wrap32 (c * 2 ^ 10) }).map (BitVec.ofInt 32)
    exec (.frameLastDeltaFirstDeltaMid p ts) s = .next { s with
      qout :=
        { first := q (first p.l.v0 p.fd.v0) (first p.l.v1 p.fd.v1) (first p.l.v2 p.fd.v2)
          mid := q (mid p.l.v0 p.fd.v0 p.md.v0) (mid p.l.v1 p.fd.v1 p.md.v1) (mid p.l.v2 p.fd.v2 p.md.v2)
          last := q p.l.v0.toInt p.l.v1.toInt p.l.v2.toInt }
      tsout := ts
      status :=
        { busy := false, done := true, decFail := false, cmdErr := s.status.cmdErr,
          mode := .lastDeltaFirstDeltaMid }
      pending := none
      turns := s.turns.tail }

/-- 43_commands.md R232 and the failure branch of R236: a frame of mode code 3 completes its DECODE with the
failure, whatever the other 142 bits. -/
def Obligations.UnknownFrameFailsWhateverItsOtherBits : Prop :=
  ∀ (lay : Config.Layout) (s : State),
    let failed : State := { s with
      qout := zeroQuats
      tsout := { start := 0, count := 0 }
      status := { busy := false, done := true, decFail := true, cmdErr := s.status.cmdErr, mode := .unknown }
      pending := none
      turns := s.turns.tail }
    (∀ rest : BitVec 142, exec (.frameUnknown rest) s = .next failed)
    ∧ ∀ fr : Frame, fieldRead fr 0 2 = 3 → exec (decodeFrame lay fr) s = .next failed

/-- 42_modes.md R196: the fields of a mode 0 frame stand at the bits of the default layout. -/
def Obligations.IndividualFieldsOfTheDefaultFrame : Prop :=
  ∀ fr : Frame, fieldRead fr 0 2 = 0 →
    ∃ p ts k, decodeFrame standardLayout fr = .frameIndividual p ts k
      ∧ (∀ s : Fin 3, (p.samples.get s).idx = fieldRead fr (2 + 41 * s.val) 2
          ∧ ∀ j : Fin 3, (p.samples.get s).c.get j = fieldRead fr (4 + 41 * s.val + 13 * j.val) 13)
      ∧ ts.start = fieldRead fr 125 11 ∧ ts.count = fieldRead fr 136 6 ∧ k = fieldRead fr 142 2

/-- 42_modes.md R193 and R187: the fields of mode 1 and mode 2 frames stand at the bits of the default
layout. -/
def Obligations.DeltaFieldsOfTheDefaultFrame : Prop :=
  (∀ fr : Frame, fieldRead fr 0 2 = 1 →
    ∃ p ts k, decodeFrame standardLayout fr = .frameFirstLastDeltaMid p ts k
      ∧ p.idx = fieldRead fr 2 2 ∧ p.sh = fieldRead fr 100 1
      ∧ (∀ j : Fin 3, p.f.get j = fieldRead fr (4 + 16 * j.val) 16
          ∧ p.l.get j = fieldRead fr (52 + 16 * j.val) 16 ∧ p.d.get j = fieldRead fr (101 + 8 * j.val) 8)
      ∧ ts.start = fieldRead fr 125 11 ∧ ts.count = fieldRead fr 136 6 ∧ k = fieldRead fr 142 2)
  ∧ ∀ fr : Frame, fieldRead fr 0 2 = 2 →
    ∃ p ts, decodeFrame standardLayout fr = .frameLastDeltaFirstDeltaMid p ts
      ∧ p.idx = fieldRead fr 2 2
      ∧ (∀ j : Fin 3, p.l.get j = fieldRead fr (4 + 21 * j.val) 21
          ∧ p.fd.get j = fieldRead fr (67 + 13 * j.val) 13 ∧ p.md.get j = fieldRead fr (106 + 7 * j.val) 7)
      ∧ ts.start = fieldRead fr 127 11 ∧ ts.count = fieldRead fr 138 6

/-! ### Steps -/

/-- A step runs the decoded instruction: a command word written to CMD on the HOST's turn, a frame in flight
on the ENGINE's turn (43_commands.md R234, R236, R239). `exec` itself moves past the write and the turn
(LOG 1: the program and the turns are the model's own fields). -/
def Obligations.StepRunsTheDecodedInstruction : Prop :=
  (∀ (s : State) (w : Word) (rest : List HostOp), s.params.base % 4 = 0 → currentTurn s = .host →
    s.prog = .write s.params.base 4 w :: rest → step s = exec (decodeCmd w) s)
  ∧ ∀ (s : State) (fr : Frame), currentTurn s = .engine → s.pending = some (.decode fr) →
    step s = exec (decodeFrame s.params.layout fr) s

/-- The ENGINE's completion of an ENCODE writes the frame of the snapshot to FRAME_OUT, its mode code to
STATUS.MODE, clears BUSY and sets DONE, and changes nothing else (43_commands.md R235, R239). -/
def Obligations.EngineCompletesEncode : Prop :=
  ∀ (s : State) (q : Triplet (Quat Word)) (ts : TimeStamp), currentTurn s = .engine →
    s.pending = some (.encode q ts) →
    let fr := encFrame s.params (q.map fun x => x.map BitVec.toInt) ts
    ∃ m : Mode, m ≠ .unknown ∧ m.code = fieldRead fr 0 2 ∧
      step s = .next { s with
        frameOut := fr
        status := { busy := false, done := true, decFail := s.status.decFail, cmdErr := s.status.cmdErr, mode := m }
        pending := none
        turns := s.turns.tail }

/-- An ENCODE written while idle, with the ENGINE's turn after the HOST's, ends with the frame of the QIN and
TSIN it was issued with in FRAME_OUT and that frame's bits [1:0] in MODE, whatever else the HOST's program
holds (43_commands.md R234, R235, R239). -/
def Obligations.EncodeRunsToItsFrame : Prop :=
  ∀ (s : State) (w : Word) (prog : List HostOp) (turns : List Turn),
    s.params.base % 4 = 0 → s.status.busy = false → w.extractLsb' 0 2 = 1 →
    s.prog = .write s.params.base 4 w :: prog → s.turns = .host :: .engine :: turns →
    let fr := encFrame s.params (s.qin.map fun x => x.map BitVec.toInt) s.tsin
    ∃ m : Mode, m ≠ .unknown ∧ m.code = fieldRead fr 0 2 ∧
      Sys2Proof.core.run 2 s = .next { s with
        frameOut := fr
        status := { busy := false, done := true, decFail := false, cmdErr := false, mode := m }
        pending := none
        prog := prog
        turns := turns }

/-- A command written while idle, with a write to any operand register (QIN, TSIN, FRAME_IN) between it and the
ENGINE's turn, ends as the operands at the CMD write say: a DECODE as FRAME_IN, an ENCODE as QIN and TSIN
then were. The operand register itself takes the value written (10_state.md R41, 43_commands.md R235, R236,
70_reset_and_hazards.md R296). -/
def Obligations.DecodeIgnoresLaterOperandWrites : Prop :=
  ∀ (s : State) (w v : Word) (n : Nat) (prog : List HostOp) (turns : List Turn),
    s.params.base % 4 = 0 → s.status.busy = false → (2 ≤ n ∧ n ≤ 14) ∨ (16 ≤ n ∧ n ≤ 20) →
    s.prog = .write s.params.base 4 w :: .write (s.params.base + 4 * n) 4 v :: prog →
    s.turns = .host :: .host :: .engine :: turns →
    let written := if n = 14 then v &&& 0x0001FFFF#32 else if n = 20 then v &&& 0x0000FFFF#32 else v
    (w.extractLsb' 0 2 = 2 → ∃ t t' : State, Sys2Proof.core.run 3 s = .next t
      ∧ exec (decodeFrame s.params.layout s.frameIn) s = .next t'
      ∧ t.qout = t'.qout ∧ t.tsout = t'.tsout ∧ t.frameOut = s.frameOut
      ∧ t.status.mode = t'.status.mode ∧ t.status.decFail = t'.status.decFail
      ∧ t.status.busy = false ∧ t.status.done = true ∧ t.status.cmdErr = false ∧ t.pending = none
      ∧ readReg (regOfIndex n) t = written)
    ∧ (w.extractLsb' 0 2 = 1 → ∃ t : State, Sys2Proof.core.run 3 s = .next t
      ∧ t.frameOut = encFrame s.params (s.qin.map fun x => x.map BitVec.toInt) s.tsin
      ∧ t.qout = s.qout ∧ t.tsout = s.tsout
      ∧ t.status.mode.code = fieldRead t.frameOut 0 2 ∧ t.status.decFail = false
      ∧ t.status.busy = false ∧ t.status.done = true ∧ t.status.cmdErr = false ∧ t.pending = none
      ∧ readReg (regOfIndex n) t = written)

/-- 43_commands.md R241: two completions with the same op, equal snapshots and equal parameters write equal
values, whatever the rest of the state. -/
def Obligations.ResultsAreIndependentOfHistory : Prop :=
  ∀ s s' t t' : State, s.params = s'.params → s.pending = s'.pending → s.pending ≠ none →
    currentTurn s = .engine → currentTurn s' = .engine → step s = .next t → step s' = .next t' →
    t.status.mode = t'.status.mode
    ∧ (∀ q ts, s.pending = some (.encode q ts) → t.frameOut = t'.frameOut)
    ∧ ∀ fr, s.pending = some (.decode fr) →
        t.qout = t'.qout ∧ t.tsout = t'.tsout ∧ t.status.decFail = t'.status.decFail

/-- The control invariant holds after every step from every state that has it (10_state.md R25, R27, R29,
R40; 60_exceptions.md R261). -/
def Obligations.ControlInvariantIsKept : Prop :=
  ∀ s t : State, controlOk s → step s = .next t → controlOk t

/-- The control invariant holds right after reset (70_reset_and_hazards.md R290). -/
def Obligations.ControlInvariantAtReset : Prop := controlOk State.reset

/-- No step changes the parameters (LOG 6, the model's choice of where they stand). -/
def Obligations.ParametersNeverChange : Prop :=
  ∀ s t : State, step s = .next t → t.params = s.params

/-- 10_state.md R25: BUSY rises only when a HOST write to CMD is an ENCODE or a DECODE, and falls only by a
completion or by reset. `pending` changes at those events alone: from a state with the control invariant BUSY
falls where `pending` is cleared and rises where it is set (R40). -/
def Obligations.BusyChangesOnlyAsStated : Prop :=
  ∀ s t : State, step s = .next t →
    (t.status.busy = true → s.status.busy = false →
      currentTurn s = .host ∧ ∃ (addr : Nat) (w : Word) (rest : List HostOp),
        s.prog = .write addr 4 w :: rest ∧ busReg s.params addr 4 = .ok .cmd
        ∧ (w.extractLsb' 0 2 = 1 ∨ w.extractLsb' 0 2 = 2))
    ∧ (t.status.busy = false → s.status.busy = true →
      currentTurn s = .reset ∨ (currentTurn s = .engine ∧ s.pending ≠ none ∧ t.status.done = true))
    ∧ (t.pending ≠ s.pending →
      (t.pending = none ∧ t.status.busy = false)
      ∨ (t.pending ≠ none ∧ s.status.busy = false ∧ t.status.busy = true))
    ∧ (controlOk s → t.pending ≠ s.pending →
      (s.pending ≠ none ∧ t.pending = none ∧ s.status.busy = true ∧ t.status.busy = false)
      ∨ (s.pending = none ∧ t.pending ≠ none ∧ s.status.busy = false ∧ t.status.busy = true))

/-- The other STATUS fields (10_state.md R26 to R29). MODE changes only by a completion or by reset. CMDERR rises
only on the HOST's write to CMD of OP 3, or of OP 1 or 2 while BUSY = 1, and falls only by acceptance or by
reset. DONE rises only by a completion, and falls only by acceptance or by reset. DEC_FAIL rises only by the
completion of a DECODE of mode code 3, and falls only by acceptance or by reset, or, from a state without the
control invariant, by the write of 0 in 43_commands.md R236. -/
def Obligations.ModeAndCmdErrChangeOnlyAsStated : Prop :=
  ∀ s t : State, step s = .next t →
    let accepted : Prop := currentTurn s = .host ∧ s.status.busy = false ∧ t.status.busy = true
    (t.status.mode ≠ s.status.mode →
      currentTurn s = .reset ∨ (currentTurn s = .engine ∧ s.pending ≠ none ∧ t.status.done = true))
    ∧ (t.status.cmdErr = true → s.status.cmdErr = false →
      currentTurn s = .host ∧ ∃ (addr : Nat) (w : Word) (rest : List HostOp),
        s.prog = .write addr 4 w :: rest ∧ busReg s.params addr 4 = .ok .cmd
        ∧ (w.extractLsb' 0 2 = 3
            ∨ (s.status.busy = true ∧ (w.extractLsb' 0 2 = 1 ∨ w.extractLsb' 0 2 = 2))))
    ∧ (t.status.cmdErr = false → s.status.cmdErr = true → currentTurn s = .reset ∨ accepted)
    ∧ (t.status.done = true → s.status.done = false →
      currentTurn s = .engine ∧ s.pending ≠ none ∧ t.pending = none ∧ t.status.busy = false)
    ∧ (t.status.done = false → s.status.done = true → currentTurn s = .reset ∨ accepted)
    ∧ (t.status.decFail = true → s.status.decFail = false →
      currentTurn s = .engine ∧ ∃ fr, s.pending = some (.decode fr) ∧ fieldRead fr 0 2 = 3)
    ∧ (t.status.decFail = false → s.status.decFail = true →
      currentTurn s = .reset ∨ accepted
      ∨ (¬ controlOk s ∧ currentTurn s = .engine ∧
          ∃ fr, s.pending = some (.decode fr) ∧ fieldRead fr 0 2 ≠ 3))

/-- The result registers change only by the completion of their own operation, or by reset (10_state.md R33,
R34, R35; 70_reset_and_hazards.md R299); the operand registers change only by a HOST write to them, or by
reset (10_state.md R30, R31, R32). -/
def Obligations.ResultRegistersChangeOnlyByTheirCompletion : Prop :=
  ∀ s t : State, step s = .next t →
    let writes (r : Reg) : Prop := currentTurn s = .host ∧ ∃ (addr : Nat) (v : Word) (rest : List HostOp),
      s.prog = .write addr 4 v :: rest ∧ busReg s.params addr 4 = .ok r
    (t.qout ≠ s.qout ∨ t.tsout ≠ s.tsout →
      currentTurn s = .reset ∨ (currentTurn s = .engine ∧ ∃ fr, s.pending = some (.decode fr)))
    ∧ (t.frameOut ≠ s.frameOut →
      currentTurn s = .reset ∨ (currentTurn s = .engine ∧ ∃ q ts, s.pending = some (.encode q ts)))
    ∧ (∀ k : Fin 12, regGet t.qin k ≠ regGet s.qin k → currentTurn s = .reset ∨ writes (.qin k))
    ∧ (t.tsin ≠ s.tsin → currentTurn s = .reset ∨ writes .tsin)
    ∧ ∀ j : Fin 5, frameWord t.frameIn j ≠ frameWord s.frameIn j →
        currentTurn s = .reset ∨ writes (.frameIn j)

/-- 70_reset_and_hazards.md R290, R291: reset from any state makes every register read 0 and `pending`
NONE; it leaves the parameters and the HOST alone (LOG 16). -/
def Obligations.ResetClearsTheBlockFromAnyState : Prop :=
  (∀ s : State, currentTurn s = .reset →
    ∃ t, step s = .next t
      ∧ (∀ n : Nat, n < 64 → readReg (regOfIndex n) t = 0)
      ∧ t.pending = none
      ∧ t.status = { busy := false, done := false, decFail := false, cmdErr := false, mode := .individual }
      ∧ t.params = s.params ∧ t.prog = s.prog ∧ t.turns = s.turns.tail ∧ t.rdata = s.rdata)
  ∧ (∀ n : Nat, n < 64 → readReg (regOfIndex n) State.reset = 0) ∧ State.reset.pending = none

/-! ### The register window -/

/-- A HOST write at BASE + 4n with n ≠ 0 stores the writable bits of QIN, TSIN and FRAME_IN and leaves every
other register as it reads; it is ignored elsewhere (10_state.md R30, R31, R32, R37, R38, R39;
20_memory.md R70). -/
def Obligations.HostWriteStoresTheWritableBits : Prop :=
  ∀ (s : State) (n : Nat) (v : Word) (rest : List HostOp), 0 < n → n < 64 → s.params.base % 4 = 0 →
    currentTurn s = .host → s.prog = .write (s.params.base + 4 * n) 4 v :: rest →
    ∃ t, step s = .next t
      ∧ readReg (regOfIndex n) t =
          (if 2 ≤ n ∧ n ≤ 13 then v
            else if n = 14 then v &&& 0x0001FFFF#32
            else if 16 ≤ n ∧ n ≤ 19 then v
            else if n = 20 then v &&& 0x0000FFFF#32
            else readReg (regOfIndex n) s)
      ∧ (∀ m : Nat, m < 64 → m ≠ n → readReg (regOfIndex m) t = readReg (regOfIndex m) s)
      ∧ t.status = s.status ∧ t.pending = s.pending ∧ t.params = s.params ∧ t.rdata = s.rdata
      ∧ t.draws = s.draws ∧ t.prog = rest ∧ t.turns = s.turns.tail

/-- A HOST read at BASE + 4n returns what the register holds, and changes no register; of an output register
while BUSY = 1 it returns some value with the reserved bits 0 (43_commands.md R243, 20_memory.md R70,
70_reset_and_hazards.md R294); that each such read draws a fresh value is the model's choice (LOG 5). -/
def Obligations.HostReadReturnsTheRegister : Prop :=
  ∀ (s : State) (n : Nat) (rest : List HostOp), n < 64 → s.params.base % 4 = 0 →
    currentTurn s = .host → s.prog = .read (s.params.base + 4 * n) 4 :: rest →
    ∃ (v : Word) (d : Nat),
      step s = .next { s with rdata := v, draws := d, prog := rest, turns := s.turns.tail }
      ∧ (if s.status.busy = true ∧ ((24 ≤ n ∧ n ≤ 36) ∨ (40 ≤ n ∧ n ≤ 44)) then
          d = s.draws + 1 ∧ (n = 36 → v.toNat < 2 ^ 17) ∧ (n = 44 → v.toNat < 2 ^ 16)
        else d = s.draws ∧ v = readReg (regOfIndex n) s)

/-- 20_memory.md R67: a step is refused exactly when the HOST's next access is not of 32 bits, not at a multiple
of 4, or outside BASE to BASE + 0xFF. The refusal is the model's choice (LOG 10). No step faults: the block has no trap
(60_exceptions.md R267), from which the model deduces that it has no fault at all (LOG 15). -/
def Obligations.RefusedExactlyOutsideTheContract : Prop :=
  ∀ s : State, s.params.base % 4 = 0 →
    ((∃ r, step s = .refused r) ↔
      currentTurn s = .host ∧ ∃ (addr bytes : Nat),
        ((∃ rest, s.prog = .read addr bytes :: rest)
          ∨ (∃ v rest, s.prog = .write addr bytes v :: rest)
          ∨ (∃ mask value rest, s.prog = .poll addr mask value :: rest ∧ bytes = 4))
        ∧ (bytes ≠ 4 ∨ addr % 4 ≠ 0 ∨ addr < s.params.base ∨ s.params.base + 0xFF < addr))
    ∧ ∀ r, step s ≠ .fault r

/-- A POLL of any register reads it as a HOST read does, and goes on exactly when the masked value is the one
awaited (30_encoding.md R93). Of an output register while BUSY = 1 the value is some value with the reserved
bits 0 (70_reset_and_hazards.md R294); that each such read draws a fresh value is the model's choice (LOG 5,
LOG 14). -/
def Obligations.PollRepeatsUntilTheValue : Prop :=
  ∀ (s : State) (n : Nat) (mask value : Word) (rest : List HostOp), n < 64 → s.params.base % 4 = 0 →
    currentTurn s = .host → s.prog = .poll (s.params.base + 4 * n) mask value :: rest →
    ∃ (v : Word) (d : Nat),
      step s = .next { s with
        rdata := v
        draws := d
        prog := if v &&& mask = value then rest else s.prog
        turns := s.turns.tail }
      ∧ (if s.status.busy = true ∧ ((24 ≤ n ∧ n ≤ 36) ∨ (40 ≤ n ∧ n ≤ 44)) then
          d = s.draws + 1 ∧ (n = 36 → v.toNat < 2 ^ 17) ∧ (n = 44 → v.toNat < 2 ^ 16)
        else d = s.draws ∧ v = readReg (regOfIndex n) s)

/-- Every accepted command eventually completes (70_reset_and_hazards.md R297; LOG 2): from every legal state
with a command in flight, whose program keeps to the interface contract and whose schedule holds no reset, BUSY
is 0, DONE 1 and `pending` NONE within as many steps as the schedule has turns left, and one more. With a
reset in the schedule the command completes or is aborted (R291): BUSY is 0 and `pending` NONE. -/
def Obligations.EveryAcceptedCommandCompletes : Prop :=
  ∀ s : State, controlOk s → programOk s →
    (Turn.reset ∉ s.turns → s.status.busy = true →
      ∃ k : Nat, k ≤ s.turns.length + 1 ∧ ∃ t, Sys2Proof.core.run k s = .next t
        ∧ t.status.busy = false ∧ t.status.done = true ∧ t.pending = none)
    ∧ ∃ k : Nat, k ≤ s.turns.length + 1 ∧ ∃ t, Sys2Proof.core.run k s = .next t
        ∧ t.status.busy = false ∧ t.pending = none

/-- 10_state.md R24: the fields of STATUS. -/
def Obligations.StatusFieldsInTheWord : Prop :=
  ∀ st : Status,
    (statusWord st).getLsbD 0 = st.busy ∧ (statusWord st).getLsbD 1 = st.done
    ∧ (statusWord st).getLsbD 2 = st.decFail ∧ (statusWord st).getLsbD 3 = st.cmdErr
    ∧ (statusWord st).extractLsb' 4 2 = st.mode.code ∧ (statusWord st).toNat < 2 ^ 6

/-- 10_state.md R38 and R37: reserved bits and reserved indices read 0, in every state. -/
def Obligations.ReservedBitsReadZero : Prop :=
  ∀ s : State,
    readReg .cmd s = 0
    ∧ (readReg .status s).extractLsb' 6 26 = 0
    ∧ (readReg .tsin s).extractLsb' 17 15 = 0
    ∧ (readReg .tsout s).extractLsb' 17 15 = 0
    ∧ (readReg (.frameIn 4) s).extractLsb' 16 16 = 0
    ∧ (readReg (.frameOut 4) s).extractLsb' 16 16 = 0
    ∧ ∀ n : Nat, n = 15 ∨ (21 ≤ n ∧ n ≤ 23) ∨ (37 ≤ n ∧ n ≤ 39) ∨ (45 ≤ n ∧ n ≤ 63) →
        readReg (regOfIndex n) s = 0

/-- 20_memory.md R68: frame byte b stands at byte offset 4(16 + b div 4) + b mod 4 of the window for FRAME_IN,
and at 4(40 + b div 4) + b mod 4 for FRAME_OUT. -/
def Obligations.FrameBytesAtConsecutiveAddresses : Prop :=
  ∀ (s : State) (b : Nat), b < 18 →
    windowByte s (4 * (16 + b / 4) + b % 4) = frameByte s.frameIn b
    ∧ windowByte s (4 * (40 + b / 4) + b % 4) = frameByte s.frameOut b

end
end

