-- ==== Sys2Proof/Laws/Bits.lean ====
section
/-! SUPPORT. The laws of FieldRead and FieldWrite (20_memory.md R61, R62), of a run of fields written one
after another, and of wrap32 (00_scope.md R10). -/

namespace Sys2Proof

/-- Bit k after a FieldWrite: the value's bit inside the field, the frame's bit outside (R62). -/
theorem fieldWrite_getLsbD {W : Nat} (fr : Frame) (off : Nat) (v : BitVec W) (k : Nat) :
    (fieldWrite fr off v).getLsbD k =
      if off ≤ k ∧ k < off + W then decide (k < 144) && v.getLsbD (k - off) else fr.getLsbD k := by
  unfold fieldWrite
  by_cases hk : k < 144
  · by_cases ho : off ≤ k
    · by_cases hw : k - off < W
      · have hlt : k < off + W := by omega
        simp [hk, ho, hw, hlt, Nat.not_lt.mpr ho]
      · have hge : ¬ k < off + W := by omega
        simp [hk, ho, hw, hge, BitVec.getLsbD_of_ge v (k - off) (by omega)]
    · have hlt : k < off := by omega
      simp [hk, ho, hlt]
  · have hz := BitVec.getLsbD_of_ge fr k (by omega)
    simp [hk, hz]

/-- Bit k of a FieldRead is frame bit off + k (R61). -/
theorem fieldRead_getLsbD (fr : Frame) (off W k : Nat) :
    (fieldRead fr off W).getLsbD k = (decide (k < W) && fr.getLsbD (off + k)) := by
  simp [fieldRead, BitVec.getLsbD_extractLsb']

/-- A field reads as it was written (R61, R62). -/
theorem fieldRead_fieldWrite_same {W : Nat} (fr : Frame) (off : Nat) (v : BitVec W)
    (h : off + W ≤ 144) : fieldRead (fieldWrite fr off v) off W = v := by
  apply BitVec.eq_of_getLsbD_eq
  intro k hk
  have hlt : off + k < 144 := by omega
  rw [fieldRead_getLsbD, fieldWrite_getLsbD]
  simp [hk, hlt]

/-- A FieldWrite leaves every disjoint field alone (R62). -/
theorem fieldRead_fieldWrite_disjoint {W : Nat} (fr : Frame) (off : Nat) (v : BitVec W) (off' W' : Nat)
    (h : off' + W' ≤ off ∨ off + W ≤ off') :
    fieldRead (fieldWrite fr off v) off' W' = fieldRead fr off' W' := by
  apply BitVec.eq_of_getLsbD_eq
  intro k hk
  have hout : ¬ (off ≤ off' + k ∧ off' + k < off + W) := by omega
  rw [fieldRead_getLsbD, fieldRead_getLsbD, fieldWrite_getLsbD]
  simp [hout]

section Fields
variable {F : Type} (width : F → Nat) (value : (f : F) → BitVec (width f))

/-- Fields written from bit `off` on leave the bits below alone. -/
theorem writeFields_below (order : List F) (off : Nat) (fr : Frame) (o w : Nat) (h : o + w ≤ off) :
    fieldRead (writeFields width value order off fr) o w = fieldRead fr o w := by
  induction order generalizing off fr with
  | nil => rfl
  | cons f fs ih =>
    rw [writeFields, ih (off + width f) _ (by omega), fieldRead_fieldWrite_disjoint _ _ _ _ _ (.inl h)]

/-- Fields written from bit `off` on leave the bits past their total width alone. -/
theorem writeFields_above (order : List F) (off : Nat) (fr : Frame) (o w : Nat)
    (h : off + (order.map width).sum ≤ o) :
    fieldRead (writeFields width value order off fr) o w = fieldRead fr o w := by
  induction order generalizing off fr with
  | nil => rfl
  | cons f fs ih =>
    simp only [List.map_cons, List.sum_cons] at h
    rw [writeFields, ih (off + width f) _ (by omega),
      fieldRead_fieldWrite_disjoint _ _ _ _ _ (.inr (by omega))]

/-- Each of the fields written reads, at its offset, as it was written. -/
theorem writeFields_read [DecidableEq F] (order : List F) (off : Nat) (fr : Frame) (f : F)
    (hf : f ∈ order) (h : off + (order.map width).sum ≤ 144) :
    fieldRead (writeFields width value order off fr) (offsetIn width order off f) (width f) = value f := by
  induction order generalizing off fr with
  | nil => simp at hf
  | cons g gs ih =>
    simp only [List.map_cons, List.sum_cons] at h
    rw [writeFields, offsetIn]
    by_cases hgf : g = f
    · subst hgf
      rw [if_pos rfl, writeFields_below _ _ _ _ _ _ _ (le_refl _),
        fieldRead_fieldWrite_same _ _ _ (by omega)]
    · rw [if_neg hgf]
      exact ih _ _ (by simpa [Ne.symm hgf] using hf) (by omega)

end Fields

/-- wrap32 leaves a 32-bit two's-complement value as it is (00_scope.md R10). -/
theorem wrap32_of_range (v : Int) (h : -2 ^ 31 ≤ v) (h' : v ≤ 2 ^ 31 - 1) : wrap32 v = v := by
  unfold wrap32 sext low
  rw [BitVec.toInt_ofInt]
  exact Int.bmod_eq_of_le (by norm_num at *; omega) (by norm_num at *; omega)

/-- wrap32 answers a 32-bit two's-complement value (00_scope.md R10). -/
theorem wrap32_range (v : Int) : -2 ^ 31 ≤ wrap32 v ∧ wrap32 v ≤ 2 ^ 31 - 1 := by
  have h1 := BitVec.le_toInt (low 32 v)
  have h2 := BitVec.toInt_lt (x := low 32 v)
  unfold wrap32 sext
  norm_num at *
  omega

end Sys2Proof
end

