-- ==== Sys2Proof/Laws/Layout.lean ====
section
/-! SUPPORT. What a legal PAYLOAD_LAYOUT guarantees, and what a built frame reads as: its mode selector, its
payload fields and its timestamp (30_encoding.md R82 to R89, 43_commands.md R230). -/

namespace Sys2Proof

/-- The parts of a legal layout: each list is a permutation of the default one (00_scope.md R7). -/
theorem layoutOk_perm {lay : Config.Layout} (h : layoutOk lay = true) :
    lay.ind.Perm indStandard ∧ lay.fl.Perm flStandard ∧ lay.ld.Perm ldStandard := by
  simp only [layoutOk, Bool.and_eq_true, List.isPerm_iff] at h
  exact ⟨h.1.1, h.1.2, h.2⟩

/-- A permutation of fields has their total width. -/
theorem totalWidth_perm {F : Type} (width : F → Nat) {a b : List F} (h : a.Perm b) :
    (a.map width).sum = (b.map width).sum := (h.map width).sum_eq

/-- The mode 0 fields are 123 bits wide in every legal layout (30_encoding.md R84). -/
theorem ind_totalWidth {lay : Config.Layout} (h : layoutOk lay = true) :
    (lay.ind.map IndField.width).sum = 123 := by
  rw [totalWidth_perm _ (layoutOk_perm h).1]; rfl

/-- The mode 1 fields are 123 bits wide in every legal layout (30_encoding.md R84). -/
theorem fl_totalWidth {lay : Config.Layout} (h : layoutOk lay = true) :
    (lay.fl.map FLField.width).sum = 123 := by
  rw [totalWidth_perm _ (layoutOk_perm h).2.1]; rfl

/-- The mode 2 fields are 125 bits wide in every legal layout (30_encoding.md R84). -/
theorem ld_totalWidth {lay : Config.Layout} (h : layoutOk lay = true) :
    (lay.ld.map LDField.width).sum = 125 := by
  rw [totalWidth_perm _ (layoutOk_perm h).2.2]; rfl

/-- Every mode 0 field stands in every legal layout. -/
theorem mem_ind {lay : Config.Layout} (h : layoutOk lay = true) (f : IndField) : f ∈ lay.ind := by
  rw [(layoutOk_perm h).1.mem_iff]
  cases f with
  | idx s => fin_cases s <;> simp [indStandard]
  | c s j => fin_cases s <;> fin_cases j <;> simp [indStandard]

/-- Every mode 1 field stands in every legal layout. -/
theorem mem_fl {lay : Config.Layout} (h : layoutOk lay = true) (f : FLField) : f ∈ lay.fl := by
  rw [(layoutOk_perm h).2.1.mem_iff]
  cases f with
  | idx => simp [flStandard]
  | sh => simp [flStandard]
  | f j => fin_cases j <;> simp [flStandard]
  | l j => fin_cases j <;> simp [flStandard]
  | d j => fin_cases j <;> simp [flStandard]

/-- Every mode 2 field stands in every legal layout. -/
theorem mem_ld {lay : Config.Layout} (h : layoutOk lay = true) (f : LDField) : f ∈ lay.ld := by
  rw [(layoutOk_perm h).2.2.mem_iff]
  cases f with
  | idx => simp [ldStandard]
  | l j => fin_cases j <;> simp [ldStandard]
  | fd j => fin_cases j <;> simp [ldStandard]
  | md j => fin_cases j <;> simp [ldStandard]

/-- A field never stands below the bit its payload begins at, whatever the layout. -/
theorem le_offsetIn {F : Type} [DecidableEq F] (width : F → Nat) (order : List F) (off : Nat) (f : F) :
    off ≤ offsetIn width order off f := by
  induction order generalizing off with
  | nil => exact le_refl _
  | cons g gs ih =>
    rw [offsetIn]
    split
    · exact le_refl _
    · exact le_trans (Nat.le_add_right _ _) (ih _)

/-- A field of the order ends inside the payload. -/
theorem offsetIn_end {F : Type} [DecidableEq F] (width : F → Nat) (order : List F) (off : Nat) (f : F)
    (hf : f ∈ order) : offsetIn width order off f + width f ≤ off + (order.map width).sum := by
  induction order generalizing off with
  | nil => simp at hf
  | cons g gs ih =>
    rw [offsetIn, List.map_cons, List.sum_cons]
    split
    · next h => subst h; omega
    · next h =>
      have := ih (off + width g) (by simpa [Ne.symm h] using hf)
      omega

/-- The mode selector of a built frame is its mode code, when the payload leaves bits 0 and 1 alone. -/
theorem buildFrame_selector (m : Mode) (payload : Frame → Frame) (ts : TimeStamp)
    (h : ∀ fr, fieldRead (payload fr) 0 2 = fieldRead fr 0 2) :
    fieldRead (buildFrame m payload ts) 0 2 = m.code := by
  unfold buildFrame
  rw [fieldRead_fieldWrite_disjoint _ _ _ _ _ (.inl (by unfold tsOffset; omega)),
    fieldRead_fieldWrite_disjoint _ _ _ _ _ (.inl (by unfold tsOffset; omega)), h,
    fieldRead_fieldWrite_same _ _ _ (by omega)]

/-- The mode selector of a mode 0 frame (30_encoding.md R83), in every layout. -/
theorem buildInd_selector (lay : Config.Layout) (p : IndPayload) (ts : TimeStamp) :
    fieldRead (buildInd lay p ts) 0 2 = Mode.individual.code :=
  buildFrame_selector _ _ _ fun _ => writeFields_below _ _ _ _ _ _ _ (by omega)

/-- The mode selector of a mode 1 frame (30_encoding.md R83), in every layout. -/
theorem buildFL_selector (lay : Config.Layout) (p : FLPayload) (ts : TimeStamp) :
    fieldRead (buildFL lay p ts) 0 2 = Mode.firstLastDeltaMid.code :=
  buildFrame_selector _ _ _ fun _ => writeFields_below _ _ _ _ _ _ _ (by omega)

/-- The mode selector of a mode 2 frame (30_encoding.md R83), in every layout. -/
theorem buildLD_selector (lay : Config.Layout) (p : LDPayload) (ts : TimeStamp) :
    fieldRead (buildLD lay p ts) 0 2 = Mode.lastDeltaFirstDeltaMid.code :=
  buildFrame_selector _ _ _ fun _ => writeFields_below _ _ _ _ _ _ _ (by omega)

/-- The timestamp of a built frame reads back, for a mode that has a payload (30_encoding.md R85). -/
theorem buildFrame_readTs (m : Mode) (payload : Frame → Frame) (ts : TimeStamp) (h : m ≠ .unknown) :
    readTs (buildFrame m payload ts) m = ts := by
  have h0 : tsOffset m + 17 ≤ 144 := by cases m <;> simp_all [tsOffset, payloadLen]
  unfold readTs buildFrame
  rw [fieldRead_fieldWrite_disjoint _ _ _ _ _ (.inl (by omega)),
    fieldRead_fieldWrite_same _ _ _ (by omega), fieldRead_fieldWrite_same _ _ _ (by omega)]

/-- A bit range below the timestamp reads as the payload left it. -/
theorem buildFrame_below (m : Mode) (payload : Frame → Frame) (ts : TimeStamp) (o w : Nat)
    (h : o + w ≤ tsOffset m) :
    fieldRead (buildFrame m payload ts) o w = fieldRead (payload (fieldWrite 0#144 0 m.code)) o w := by
  unfold buildFrame
  rw [fieldRead_fieldWrite_disjoint _ _ _ _ _ (.inl (by omega)),
    fieldRead_fieldWrite_disjoint _ _ _ _ _ (.inl (by omega))]

/-- A mode 0 field of a built frame reads as the payload's value, in every legal layout. -/
theorem buildInd_field {lay : Config.Layout} (h : layoutOk lay = true) (p : IndPayload) (ts : TimeStamp)
    (f : IndField) : fieldRead (buildInd lay p ts) (indOffset lay f) f.width = p.get f := by
  have hsum := ind_totalWidth h
  have hend := offsetIn_end IndField.width lay.ind 2 f (mem_ind h f)
  unfold buildInd indOffset
  rw [buildFrame_below _ _ _ _ _ (by simp only [tsOffset, payloadLen]; omega),
    writeFields_read _ _ _ _ _ _ (mem_ind h f) (by omega)]

/-- A mode 1 field of a built frame reads as the payload's value, in every legal layout. -/
theorem buildFL_field {lay : Config.Layout} (h : layoutOk lay = true) (p : FLPayload) (ts : TimeStamp)
    (f : FLField) : fieldRead (buildFL lay p ts) (flOffset lay f) f.width = p.get f := by
  have hsum := fl_totalWidth h
  have hend := offsetIn_end FLField.width lay.fl 2 f (mem_fl h f)
  unfold buildFL flOffset
  rw [buildFrame_below _ _ _ _ _ (by simp only [tsOffset, payloadLen]; omega),
    writeFields_read _ _ _ _ _ _ (mem_fl h f) (by omega)]

/-- A mode 2 field of a built frame reads as the payload's value, in every legal layout. -/
theorem buildLD_field {lay : Config.Layout} (h : layoutOk lay = true) (p : LDPayload) (ts : TimeStamp)
    (f : LDField) : fieldRead (buildLD lay p ts) (ldOffset lay f) f.width = p.get f := by
  have hsum := ld_totalWidth h
  have hend := offsetIn_end LDField.width lay.ld 2 f (mem_ld h f)
  unfold buildLD ldOffset
  rw [buildFrame_below _ _ _ _ _ (by simp only [tsOffset, payloadLen]; omega),
    writeFields_read _ _ _ _ _ _ (mem_ld h f) (by omega)]

end Sys2Proof
end

