-- ==== Sys2Proof/Laws/State.lean ====
section
/-! SUPPORT. One lemma per field of State per shared update, and per field of STATUS per flag update, each
true by rfl: a proof reads a field of an updated state without unfolding the update. -/

namespace Sys2Proof.Machine

/-! ### advanceTurn -/

@[simp] theorem advanceTurn_params (s : State) :
    (advanceTurn s).params = s.params := rfl
@[simp] theorem advanceTurn_status (s : State) :
    (advanceTurn s).status = s.status := rfl
@[simp] theorem advanceTurn_qin (s : State) :
    (advanceTurn s).qin = s.qin := rfl
@[simp] theorem advanceTurn_tsin (s : State) :
    (advanceTurn s).tsin = s.tsin := rfl
@[simp] theorem advanceTurn_frameIn (s : State) :
    (advanceTurn s).frameIn = s.frameIn := rfl
@[simp] theorem advanceTurn_qout (s : State) :
    (advanceTurn s).qout = s.qout := rfl
@[simp] theorem advanceTurn_tsout (s : State) :
    (advanceTurn s).tsout = s.tsout := rfl
@[simp] theorem advanceTurn_frameOut (s : State) :
    (advanceTurn s).frameOut = s.frameOut := rfl
@[simp] theorem advanceTurn_pending (s : State) :
    (advanceTurn s).pending = s.pending := rfl
@[simp] theorem advanceTurn_prog (s : State) :
    (advanceTurn s).prog = s.prog := rfl
@[simp] theorem advanceTurn_turns (s : State) :
    (advanceTurn s).turns = s.turns.tail := rfl
@[simp] theorem advanceTurn_rdata (s : State) :
    (advanceTurn s).rdata = s.rdata := rfl
@[simp] theorem advanceTurn_draws (s : State) :
    (advanceTurn s).draws = s.draws := rfl

/-! ### advanceHost -/

@[simp] theorem advanceHost_params (s : State) :
    (advanceHost s).params = s.params := rfl
@[simp] theorem advanceHost_status (s : State) :
    (advanceHost s).status = s.status := rfl
@[simp] theorem advanceHost_qin (s : State) :
    (advanceHost s).qin = s.qin := rfl
@[simp] theorem advanceHost_tsin (s : State) :
    (advanceHost s).tsin = s.tsin := rfl
@[simp] theorem advanceHost_frameIn (s : State) :
    (advanceHost s).frameIn = s.frameIn := rfl
@[simp] theorem advanceHost_qout (s : State) :
    (advanceHost s).qout = s.qout := rfl
@[simp] theorem advanceHost_tsout (s : State) :
    (advanceHost s).tsout = s.tsout := rfl
@[simp] theorem advanceHost_frameOut (s : State) :
    (advanceHost s).frameOut = s.frameOut := rfl
@[simp] theorem advanceHost_pending (s : State) :
    (advanceHost s).pending = s.pending := rfl
@[simp] theorem advanceHost_prog (s : State) :
    (advanceHost s).prog = s.prog.tail := rfl
@[simp] theorem advanceHost_turns (s : State) :
    (advanceHost s).turns = s.turns.tail := rfl
@[simp] theorem advanceHost_rdata (s : State) :
    (advanceHost s).rdata = s.rdata := rfl
@[simp] theorem advanceHost_draws (s : State) :
    (advanceHost s).draws = s.draws := rfl

/-! ### raiseCmdErr -/

@[simp] theorem raiseCmdErr_params (s : State) :
    (raiseCmdErr s).params = s.params := rfl
@[simp] theorem raiseCmdErr_status (s : State) :
    (raiseCmdErr s).status = cmdErrStatus s.status := rfl
@[simp] theorem raiseCmdErr_qin (s : State) :
    (raiseCmdErr s).qin = s.qin := rfl
@[simp] theorem raiseCmdErr_tsin (s : State) :
    (raiseCmdErr s).tsin = s.tsin := rfl
@[simp] theorem raiseCmdErr_frameIn (s : State) :
    (raiseCmdErr s).frameIn = s.frameIn := rfl
@[simp] theorem raiseCmdErr_qout (s : State) :
    (raiseCmdErr s).qout = s.qout := rfl
@[simp] theorem raiseCmdErr_tsout (s : State) :
    (raiseCmdErr s).tsout = s.tsout := rfl
@[simp] theorem raiseCmdErr_frameOut (s : State) :
    (raiseCmdErr s).frameOut = s.frameOut := rfl
@[simp] theorem raiseCmdErr_pending (s : State) :
    (raiseCmdErr s).pending = s.pending := rfl
@[simp] theorem raiseCmdErr_prog (s : State) :
    (raiseCmdErr s).prog = s.prog := rfl
@[simp] theorem raiseCmdErr_turns (s : State) :
    (raiseCmdErr s).turns = s.turns := rfl
@[simp] theorem raiseCmdErr_rdata (s : State) :
    (raiseCmdErr s).rdata = s.rdata := rfl
@[simp] theorem raiseCmdErr_draws (s : State) :
    (raiseCmdErr s).draws = s.draws := rfl

/-! ### raiseDecodeFail -/

@[simp] theorem raiseDecodeFail_params (s : State) :
    (raiseDecodeFail s).params = s.params := rfl
@[simp] theorem raiseDecodeFail_status (s : State) :
    (raiseDecodeFail s).status = decFailStatus s.status := rfl
@[simp] theorem raiseDecodeFail_qin (s : State) :
    (raiseDecodeFail s).qin = s.qin := rfl
@[simp] theorem raiseDecodeFail_tsin (s : State) :
    (raiseDecodeFail s).tsin = s.tsin := rfl
@[simp] theorem raiseDecodeFail_frameIn (s : State) :
    (raiseDecodeFail s).frameIn = s.frameIn := rfl
@[simp] theorem raiseDecodeFail_qout (s : State) :
    (raiseDecodeFail s).qout = zeroQuats := rfl
@[simp] theorem raiseDecodeFail_tsout (s : State) :
    (raiseDecodeFail s).tsout = zeroTs := rfl
@[simp] theorem raiseDecodeFail_frameOut (s : State) :
    (raiseDecodeFail s).frameOut = s.frameOut := rfl
@[simp] theorem raiseDecodeFail_pending (s : State) :
    (raiseDecodeFail s).pending = s.pending := rfl
@[simp] theorem raiseDecodeFail_prog (s : State) :
    (raiseDecodeFail s).prog = s.prog := rfl
@[simp] theorem raiseDecodeFail_turns (s : State) :
    (raiseDecodeFail s).turns = s.turns := rfl
@[simp] theorem raiseDecodeFail_rdata (s : State) :
    (raiseDecodeFail s).rdata = s.rdata := rfl
@[simp] theorem raiseDecodeFail_draws (s : State) :
    (raiseDecodeFail s).draws = s.draws := rfl

/-! ### accept -/

@[simp] theorem accept_params (op : Op) (s : State) :
    (accept op s).params = s.params := rfl
@[simp] theorem accept_status (op : Op) (s : State) :
    (accept op s).status = acceptStatus s.status := rfl
@[simp] theorem accept_qin (op : Op) (s : State) :
    (accept op s).qin = s.qin := rfl
@[simp] theorem accept_tsin (op : Op) (s : State) :
    (accept op s).tsin = s.tsin := rfl
@[simp] theorem accept_frameIn (op : Op) (s : State) :
    (accept op s).frameIn = s.frameIn := rfl
@[simp] theorem accept_qout (op : Op) (s : State) :
    (accept op s).qout = s.qout := rfl
@[simp] theorem accept_tsout (op : Op) (s : State) :
    (accept op s).tsout = s.tsout := rfl
@[simp] theorem accept_frameOut (op : Op) (s : State) :
    (accept op s).frameOut = s.frameOut := rfl
@[simp] theorem accept_pending (op : Op) (s : State) :
    (accept op s).pending = some (snapshot op s) := rfl
@[simp] theorem accept_prog (op : Op) (s : State) :
    (accept op s).prog = s.prog := rfl
@[simp] theorem accept_turns (op : Op) (s : State) :
    (accept op s).turns = s.turns := rfl
@[simp] theorem accept_rdata (op : Op) (s : State) :
    (accept op s).rdata = s.rdata := rfl
@[simp] theorem accept_draws (op : Op) (s : State) :
    (accept op s).draws = s.draws := rfl

/-! ### complete -/

@[simp] theorem complete_params (s : State) :
    (complete s).params = s.params := rfl
@[simp] theorem complete_status (s : State) :
    (complete s).status = completeStatus s.status := rfl
@[simp] theorem complete_qin (s : State) :
    (complete s).qin = s.qin := rfl
@[simp] theorem complete_tsin (s : State) :
    (complete s).tsin = s.tsin := rfl
@[simp] theorem complete_frameIn (s : State) :
    (complete s).frameIn = s.frameIn := rfl
@[simp] theorem complete_qout (s : State) :
    (complete s).qout = s.qout := rfl
@[simp] theorem complete_tsout (s : State) :
    (complete s).tsout = s.tsout := rfl
@[simp] theorem complete_frameOut (s : State) :
    (complete s).frameOut = s.frameOut := rfl
@[simp] theorem complete_pending (s : State) :
    (complete s).pending = none := rfl
@[simp] theorem complete_prog (s : State) :
    (complete s).prog = s.prog := rfl
@[simp] theorem complete_turns (s : State) :
    (complete s).turns = s.turns := rfl
@[simp] theorem complete_rdata (s : State) :
    (complete s).rdata = s.rdata := rfl
@[simp] theorem complete_draws (s : State) :
    (complete s).draws = s.draws := rfl

/-! ### encodeResult -/

@[simp] theorem encodeResult_params (q : Triplet (Quat Word)) (ts : TimeStamp) (s : State) :
    (encodeResult q ts s).params = s.params := rfl
@[simp] theorem encodeResult_status (q : Triplet (Quat Word)) (ts : TimeStamp) (s : State) :
    (encodeResult q ts s).status = modeStatus (Mode.ofCode (fieldRead (encFrame s.params (q.map quatOfWords) ts) 0 2)) s.status := rfl
@[simp] theorem encodeResult_qin (q : Triplet (Quat Word)) (ts : TimeStamp) (s : State) :
    (encodeResult q ts s).qin = s.qin := rfl
@[simp] theorem encodeResult_tsin (q : Triplet (Quat Word)) (ts : TimeStamp) (s : State) :
    (encodeResult q ts s).tsin = s.tsin := rfl
@[simp] theorem encodeResult_frameIn (q : Triplet (Quat Word)) (ts : TimeStamp) (s : State) :
    (encodeResult q ts s).frameIn = s.frameIn := rfl
@[simp] theorem encodeResult_qout (q : Triplet (Quat Word)) (ts : TimeStamp) (s : State) :
    (encodeResult q ts s).qout = s.qout := rfl
@[simp] theorem encodeResult_tsout (q : Triplet (Quat Word)) (ts : TimeStamp) (s : State) :
    (encodeResult q ts s).tsout = s.tsout := rfl
@[simp] theorem encodeResult_frameOut (q : Triplet (Quat Word)) (ts : TimeStamp) (s : State) :
    (encodeResult q ts s).frameOut = encFrame s.params (q.map quatOfWords) ts := rfl
@[simp] theorem encodeResult_pending (q : Triplet (Quat Word)) (ts : TimeStamp) (s : State) :
    (encodeResult q ts s).pending = s.pending := rfl
@[simp] theorem encodeResult_prog (q : Triplet (Quat Word)) (ts : TimeStamp) (s : State) :
    (encodeResult q ts s).prog = s.prog := rfl
@[simp] theorem encodeResult_turns (q : Triplet (Quat Word)) (ts : TimeStamp) (s : State) :
    (encodeResult q ts s).turns = s.turns := rfl
@[simp] theorem encodeResult_rdata (q : Triplet (Quat Word)) (ts : TimeStamp) (s : State) :
    (encodeResult q ts s).rdata = s.rdata := rfl
@[simp] theorem encodeResult_draws (q : Triplet (Quat Word)) (ts : TimeStamp) (s : State) :
    (encodeResult q ts s).draws = s.draws := rfl

/-! ### decodeResult -/

@[simp] theorem decodeResult_params (m : Mode) (q : Triplet (Quat Int)) (ts : TimeStamp) (s : State) :
    (decodeResult m q ts s).params = s.params := rfl
@[simp] theorem decodeResult_status (m : Mode) (q : Triplet (Quat Int)) (ts : TimeStamp) (s : State) :
    (decodeResult m q ts s).status = decodedStatus m s.status := rfl
@[simp] theorem decodeResult_qin (m : Mode) (q : Triplet (Quat Int)) (ts : TimeStamp) (s : State) :
    (decodeResult m q ts s).qin = s.qin := rfl
@[simp] theorem decodeResult_tsin (m : Mode) (q : Triplet (Quat Int)) (ts : TimeStamp) (s : State) :
    (decodeResult m q ts s).tsin = s.tsin := rfl
@[simp] theorem decodeResult_frameIn (m : Mode) (q : Triplet (Quat Int)) (ts : TimeStamp) (s : State) :
    (decodeResult m q ts s).frameIn = s.frameIn := rfl
@[simp] theorem decodeResult_qout (m : Mode) (q : Triplet (Quat Int)) (ts : TimeStamp) (s : State) :
    (decodeResult m q ts s).qout = q.map wordsOfQuat := rfl
@[simp] theorem decodeResult_tsout (m : Mode) (q : Triplet (Quat Int)) (ts : TimeStamp) (s : State) :
    (decodeResult m q ts s).tsout = ts := rfl
@[simp] theorem decodeResult_frameOut (m : Mode) (q : Triplet (Quat Int)) (ts : TimeStamp) (s : State) :
    (decodeResult m q ts s).frameOut = s.frameOut := rfl
@[simp] theorem decodeResult_pending (m : Mode) (q : Triplet (Quat Int)) (ts : TimeStamp) (s : State) :
    (decodeResult m q ts s).pending = s.pending := rfl
@[simp] theorem decodeResult_prog (m : Mode) (q : Triplet (Quat Int)) (ts : TimeStamp) (s : State) :
    (decodeResult m q ts s).prog = s.prog := rfl
@[simp] theorem decodeResult_turns (m : Mode) (q : Triplet (Quat Int)) (ts : TimeStamp) (s : State) :
    (decodeResult m q ts s).turns = s.turns := rfl
@[simp] theorem decodeResult_rdata (m : Mode) (q : Triplet (Quat Int)) (ts : TimeStamp) (s : State) :
    (decodeResult m q ts s).rdata = s.rdata := rfl
@[simp] theorem decodeResult_draws (m : Mode) (q : Triplet (Quat Int)) (ts : TimeStamp) (s : State) :
    (decodeResult m q ts s).draws = s.draws := rfl

/-! ### resetBlock -/

@[simp] theorem resetBlock_params (s : State) :
    (resetBlock s).params = s.params := rfl
@[simp] theorem resetBlock_status (s : State) :
    (resetBlock s).status = resetStatus := rfl
@[simp] theorem resetBlock_qin (s : State) :
    (resetBlock s).qin = zeroQuats := rfl
@[simp] theorem resetBlock_tsin (s : State) :
    (resetBlock s).tsin = zeroTs := rfl
@[simp] theorem resetBlock_frameIn (s : State) :
    (resetBlock s).frameIn = 0 := rfl
@[simp] theorem resetBlock_qout (s : State) :
    (resetBlock s).qout = zeroQuats := rfl
@[simp] theorem resetBlock_tsout (s : State) :
    (resetBlock s).tsout = zeroTs := rfl
@[simp] theorem resetBlock_frameOut (s : State) :
    (resetBlock s).frameOut = 0 := rfl
@[simp] theorem resetBlock_pending (s : State) :
    (resetBlock s).pending = none := rfl
@[simp] theorem resetBlock_prog (s : State) :
    (resetBlock s).prog = s.prog := rfl
@[simp] theorem resetBlock_turns (s : State) :
    (resetBlock s).turns = s.turns := rfl
@[simp] theorem resetBlock_rdata (s : State) :
    (resetBlock s).rdata = s.rdata := rfl
@[simp] theorem resetBlock_draws (s : State) :
    (resetBlock s).draws = s.draws := rfl

/-! ### acceptStatus -/

@[simp] theorem acceptStatus_busy (st : Status) : (acceptStatus st).busy = true := rfl
@[simp] theorem acceptStatus_done (st : Status) : (acceptStatus st).done = false := rfl
@[simp] theorem acceptStatus_decFail (st : Status) : (acceptStatus st).decFail = false := rfl
@[simp] theorem acceptStatus_cmdErr (st : Status) : (acceptStatus st).cmdErr = false := rfl
@[simp] theorem acceptStatus_mode (st : Status) : (acceptStatus st).mode = st.mode := rfl

/-! ### completeStatus -/

@[simp] theorem completeStatus_busy (st : Status) : (completeStatus st).busy = false := rfl
@[simp] theorem completeStatus_done (st : Status) : (completeStatus st).done = true := rfl
@[simp] theorem completeStatus_decFail (st : Status) : (completeStatus st).decFail = st.decFail := rfl
@[simp] theorem completeStatus_cmdErr (st : Status) : (completeStatus st).cmdErr = st.cmdErr := rfl
@[simp] theorem completeStatus_mode (st : Status) : (completeStatus st).mode = st.mode := rfl

/-! ### modeStatus -/

@[simp] theorem modeStatus_busy (m : Mode) (st : Status) : (modeStatus m st).busy = st.busy := rfl
@[simp] theorem modeStatus_done (m : Mode) (st : Status) : (modeStatus m st).done = st.done := rfl
@[simp] theorem modeStatus_decFail (m : Mode) (st : Status) : (modeStatus m st).decFail = st.decFail := rfl
@[simp] theorem modeStatus_cmdErr (m : Mode) (st : Status) : (modeStatus m st).cmdErr = st.cmdErr := rfl
@[simp] theorem modeStatus_mode (m : Mode) (st : Status) : (modeStatus m st).mode = m := rfl

/-! ### decodedStatus -/

@[simp] theorem decodedStatus_busy (m : Mode) (st : Status) : (decodedStatus m st).busy = st.busy := rfl
@[simp] theorem decodedStatus_done (m : Mode) (st : Status) : (decodedStatus m st).done = st.done := rfl
@[simp] theorem decodedStatus_decFail (m : Mode) (st : Status) : (decodedStatus m st).decFail = false := rfl
@[simp] theorem decodedStatus_cmdErr (m : Mode) (st : Status) : (decodedStatus m st).cmdErr = st.cmdErr := rfl
@[simp] theorem decodedStatus_mode (m : Mode) (st : Status) : (decodedStatus m st).mode = m := rfl

/-! ### cmdErrStatus -/

@[simp] theorem cmdErrStatus_busy (st : Status) : (cmdErrStatus st).busy = st.busy := rfl
@[simp] theorem cmdErrStatus_done (st : Status) : (cmdErrStatus st).done = st.done := rfl
@[simp] theorem cmdErrStatus_decFail (st : Status) : (cmdErrStatus st).decFail = st.decFail := rfl
@[simp] theorem cmdErrStatus_cmdErr (st : Status) : (cmdErrStatus st).cmdErr = true := rfl
@[simp] theorem cmdErrStatus_mode (st : Status) : (cmdErrStatus st).mode = st.mode := rfl

/-! ### decFailStatus -/

@[simp] theorem decFailStatus_busy (st : Status) : (decFailStatus st).busy = st.busy := rfl
@[simp] theorem decFailStatus_done (st : Status) : (decFailStatus st).done = st.done := rfl
@[simp] theorem decFailStatus_decFail (st : Status) : (decFailStatus st).decFail = true := rfl
@[simp] theorem decFailStatus_cmdErr (st : Status) : (decFailStatus st).cmdErr = st.cmdErr := rfl
@[simp] theorem decFailStatus_mode (st : Status) : (decFailStatus st).mode = .unknown := rfl

end Sys2Proof.Machine
end

