-- ==== Sys2Proof/Laws/Ops.lean ====
section
/-! SUPPORT. What each shared operation can do, said once: command issue, HOST reads and writes, bus
accesses, completions, and a whole step. -/

namespace Sys2Proof.Machine

/-- A command is dropped with CmdErr while busy, else accepted (43_commands.md R234, R240). -/
theorem issue_cases (op : Op) (s : State) :
    (s.status.busy = true ∧ issue op s = raiseCmdErr s) ∨
    (s.status.busy = false ∧ issue op s = accept op s) := by
  unfold issue
  cases s.status.busy <;> simp

/-- A HOST read changes `rdata` and, for a draw, `draws`; nothing else. -/
theorem hostRead_eq (r : Reg) (s : State) :
    hostRead r s = { s with rdata := (hostRead r s).rdata, draws := (hostRead r s).draws } := by
  unfold hostRead
  repeat' split
  all_goals rfl

/-- A HOST read returns what the register holds, or a draw with the reserved bits 0 (43_commands.md R243,
70_reset_and_hazards.md R294). -/
theorem hostRead_cases (r : Reg) (s : State) :
    hostRead r s = { s with rdata := readReg r s } ∨
    ∃ mask, drawMask r = some mask ∧ s.status.busy = true ∧
      hostRead r s = { s with rdata := Config.busyRead s.draws &&& mask, draws := s.draws + 1 } := by
  unfold hostRead
  split
  · next mask h =>
    split
    · next hb => exact .inr ⟨mask, h, hb, rfl⟩
    · exact .inl rfl
  · exact .inl rfl

/-- A HOST write changes at most QIN, TSIN or FRAME_IN (10_state.md R37 to R39). -/
theorem writeReg_eq (r : Reg) (v : Word) (s : State) :
    writeReg r v s = { s with
      qin := (writeReg r v s).qin, tsin := (writeReg r v s).tsin, frameIn := (writeReg r v s).frameIn } := by
  cases r <;> rfl

/-- When a bus access reaches a register (20_memory.md R67). -/
theorem busReg_ok_iff (p : Config.Params) (addr bytes : Nat) (r : Reg) :
    busReg p addr bytes = .ok r ↔
      bytes = 4 ∧ p.base ≤ addr ∧ addr ≤ p.base + 0xFF ∧ addr % 4 = 0 ∧ (addr - p.base) % 4 = 0 ∧
        regOfIndex ((addr - p.base) / 4) = r := by
  unfold busReg
  split
  · next h => exact ⟨fun e => by simp at e, fun e => absurd e.1 h⟩
  · split
    · next h => exact ⟨fun e => by simp at e, fun e => by omega⟩
    · split
      · next h => exact ⟨fun e => by simp at e, fun e => by omega⟩
      · next h1 h2 h3 =>
        refine ⟨fun e => ⟨by omega, by omega, by omega, by omega, by omega, by simpa using e⟩, fun e => ?_⟩
        exact congrArg _ e.2.2.2.2.2

/-- A bus access at BASE + 4n reaches register n (20_memory.md R67). -/
theorem busReg_at (p : Config.Params) (n : Nat) (hn : n < 64) (hb : p.base % 4 = 0) :
    busReg p (p.base + 4 * n) 4 = .ok (regOfIndex n) := by
  rw [busReg_ok_iff]
  refine ⟨rfl, by omega, by omega, by omega, by omega, ?_⟩
  congr 1
  omega

/-- A legal PAYLOAD_LAYOUT or not, ENC_FRAME writes the selected mode's code, never code 3 (43_commands.md
R230). -/
theorem encFrame_selector (p : Config.Params) (q : Triplet (Quat Int)) (ts : TimeStamp) :
    fieldRead (encFrame p q ts) 0 2 = (selectMode p q).code := by
  unfold encFrame
  have hne : selectMode p q ≠ .unknown := by unfold selectMode; repeat' split <;> simp
  cases h : selectMode p q with
  | lastDeltaFirstDeltaMid => exact buildLD_selector _ _ _
  | firstLastDeltaMid => exact buildFL_selector _ _ _
  | individual => exact buildInd_selector _ _ _
  | unknown => exact absurd h hne

/-- ENC_PAYLOAD selects a mode the frame format has (42_modes.md R199). -/
theorem selectMode_ne_unknown (p : Config.Params) (q : Triplet (Quat Int)) : selectMode p q ≠ .unknown := by
  unfold selectMode
  repeat' split
  all_goals simp

/-- The mode of a mode's code. -/
@[simp] theorem ofCode_code (m : Mode) : Mode.ofCode m.code = m := by cases m <;> rfl

/-- A command word's instruction answers one of four next states, by its OP (43_commands.md R234 to R240). -/
theorem exec_decodeCmd_cases (w : Word) (s : State) :
    (w.extractLsb' 0 2 = 0 ∧ exec (decodeCmd w) s = .next (advanceHost s)) ∨
    (w.extractLsb' 0 2 = 1 ∧ exec (decodeCmd w) s = .next (advanceHost (issue .encode s))) ∨
    (w.extractLsb' 0 2 = 2 ∧ exec (decodeCmd w) s = .next (advanceHost (issue .decode s))) ∨
    (w.extractLsb' 0 2 = 3 ∧ exec (decodeCmd w) s = .next (advanceHost (raiseCmdErr s))) := by
  have four : ∀ op : BitVec 2, op = 0 ∨ op = 1 ∨ op = 2 ∨ op = 3 := by decide
  rcases four (w.extractLsb' 0 2) with h | h | h | h <;>
    simp [decodeCmd, h, exec, execNop, execEncode, execDecode, execReservedOp3]

/-- A frame's instruction completes a DECODE, with a result or with the failure (43_commands.md R236). -/
theorem exec_decodeFrame_cases (lay : Config.Layout) (fr : Frame) (s : State) :
    (∃ m q ts, m ≠ .unknown ∧ m = Mode.ofCode (fieldRead fr 0 2) ∧
      exec (decodeFrame lay fr) s = .next (completeDecode m q ts s)) ∨
    (Mode.ofCode (fieldRead fr 0 2) = .unknown ∧ exec (decodeFrame lay fr) s = .next (completeFail s)) := by
  unfold decodeFrame
  cases h : Mode.ofCode (fieldRead fr 0 2) with
  | individual => exact .inl ⟨_, _, _, by simp, rfl, rfl⟩
  | firstLastDeltaMid => exact .inl ⟨_, _, _, by simp, rfl, rfl⟩
  | lastDeltaFirstDeltaMid => exact .inl ⟨_, _, _, by simp, rfl, rfl⟩
  | unknown => exact .inr ⟨rfl, rfl⟩

/-- What a HOST turn can do when it answers a next state. -/
inductive HostTurn (s : State) : State → Prop where
  | idle : s.prog = [] → HostTurn s (advanceTurn s)
  | read (addr bytes : Nat) (rest : List HostOp) (r : Reg) :
      s.prog = .read addr bytes :: rest → busReg s.params addr bytes = .ok r →
      HostTurn s (advanceHost (hostRead r s))
  | write (addr bytes : Nat) (v : Word) (rest : List HostOp) (r : Reg) :
      s.prog = .write addr bytes v :: rest → busReg s.params addr bytes = .ok r → r ≠ .cmd →
      HostTurn s (advanceHost (writeReg r v s))
  | command (addr bytes : Nat) (v : Word) (rest : List HostOp) (t : State) :
      s.prog = .write addr bytes v :: rest → busReg s.params addr bytes = .ok .cmd →
      exec (decodeCmd v) s = .next t → HostTurn s t
  | poll (addr : Nat) (mask value : Word) (rest : List HostOp) (r : Reg) :
      s.prog = .poll addr mask value :: rest → busReg s.params addr 4 = .ok r →
      HostTurn s (pollOnce r mask value s)

/-- What an ENGINE turn can do. -/
inductive EngineTurn (s : State) : State → Prop where
  | idle : s.pending = none → EngineTurn s (advanceTurn s)
  | encode (q : Triplet (Quat Word)) (ts : TimeStamp) :
      s.pending = some (.encode q ts) → EngineTurn s (completeEncode q ts s)
  | decode (fr : Frame) (t : State) :
      s.pending = some (.decode fr) → exec (decodeFrame s.params.layout fr) s = .next t → EngineTurn s t

/-- Everything a step that answers a next state can do (43_commands.md R243). -/
theorem step_cases {s t : State} (h : step s = .next t) :
    (currentTurn s = .reset ∧ t = advanceTurn (resetBlock s)) ∨
    (currentTurn s = .engine ∧ EngineTurn s t) ∨
    (currentTurn s = .host ∧ HostTurn s t) := by
  unfold step fetch at h
  cases hturn : currentTurn s with
  | reset =>
    rw [hturn] at h
    exact .inl ⟨rfl, (by simpa using h.symm)⟩
  | engine =>
    rw [hturn] at h
    refine .inr (.inl ⟨rfl, ?_⟩)
    simp only [engineTurn] at h
    cases hp : s.pending with
    | none =>
      rw [hp] at h
      obtain rfl : advanceTurn s = t := by simpa using h
      exact .idle hp
    | some p =>
      rw [hp] at h
      cases p with
      | encode q ts =>
        obtain rfl : completeEncode q ts s = t := by simpa using h
        exact .encode q ts hp
      | decode fr => exact .decode fr t hp h
  | host =>
    rw [hturn] at h
    refine .inr (.inr ⟨rfl, ?_⟩)
    simp only [hostTurn] at h
    cases hp : s.prog with
    | nil =>
      rw [hp] at h
      obtain rfl : advanceTurn s = t := by simpa using h
      exact .idle hp
    | cons op rest =>
      rw [hp] at h
      cases op with
      | read addr bytes =>
        cases hb : busReg s.params addr bytes with
        | error r => simp [hb] at h
        | ok r =>
          obtain rfl : advanceHost (hostRead r s) = t := by simpa [hb] using h
          exact .read addr bytes rest r hp hb
      | write addr bytes v =>
        cases hb : busReg s.params addr bytes with
        | error r => simp [hb] at h
        | ok r =>
          by_cases hr : r = .cmd
          · subst hr
            exact .command addr bytes v rest t hp hb (by simpa [hb] using h)
          · obtain rfl : advanceHost (writeReg r v s) = t := by
              cases r <;> simp_all
            exact .write addr bytes v rest r hp hb hr
      | poll addr mask value =>
        cases hb : busReg s.params addr 4 with
        | error r => simp [hb] at h
        | ok r =>
          obtain rfl : pollOnce r mask value s = t := by simpa [hb] using h
          exact .poll addr mask value rest r hp hb

/-! ### One step of each kind -/

/-- A reset turn (70_reset_and_hazards.md R290). -/
theorem step_reset {s : State} (ht : currentTurn s = .reset) :
    step s = .next (advanceTurn (resetBlock s)) := by simp [step, fetch, ht]

/-- An ENGINE turn with nothing pending (43_commands.md R243). -/
theorem step_engine_none {s : State} (ht : currentTurn s = .engine) (hp : s.pending = none) :
    step s = .next (advanceTurn s) := by simp [step, fetch, ht, engineTurn, hp]

/-- An ENGINE turn with an ENCODE pending (43_commands.md R239). -/
theorem step_engine_encode {s : State} {q : Triplet (Quat Word)} {ts : TimeStamp}
    (ht : currentTurn s = .engine) (hp : s.pending = some (.encode q ts)) :
    step s = .next (completeEncode q ts s) := by simp [step, fetch, ht, engineTurn, hp]

/-- A HOST turn at the end of the program. -/
theorem step_host_idle {s : State} (ht : currentTurn s = .host) (hp : s.prog = []) :
    step s = .next (advanceTurn s) := by simp [step, fetch, ht, hostTurn, hp]

/-- A HOST read of register r (43_commands.md R243). -/
theorem step_host_read {s : State} {addr bytes : Nat} {rest : List HostOp} {r : Reg}
    (ht : currentTurn s = .host) (hp : s.prog = .read addr bytes :: rest)
    (hb : busReg s.params addr bytes = .ok r) : step s = .next (advanceHost (hostRead r s)) := by
  simp only [step, fetch, ht, hostTurn, hp, hb]

/-- A HOST write to a register other than CMD (43_commands.md R243). -/
theorem step_host_write {s : State} {addr bytes : Nat} {v : Word} {rest : List HostOp} {r : Reg}
    (ht : currentTurn s = .host) (hp : s.prog = .write addr bytes v :: rest)
    (hb : busReg s.params addr bytes = .ok r) (hr : r ≠ .cmd) :
    step s = .next (advanceHost (writeReg r v s)) := by
  simp only [step, fetch, ht, hostTurn, hp, hb]

/-- A HOST write to CMD (43_commands.md R234). -/
theorem step_host_command {s : State} {addr bytes : Nat} {v : Word} {rest : List HostOp}
    (ht : currentTurn s = .host) (hp : s.prog = .write addr bytes v :: rest)
    (hb : busReg s.params addr bytes = .ok .cmd) : step s = exec (decodeCmd v) s := by
  simp only [step, fetch, ht, hostTurn, hp, hb]

/-- One read of a POLL (30_encoding.md R93). -/
theorem step_host_poll {s : State} {addr : Nat} {mask value : Word} {rest : List HostOp} {r : Reg}
    (ht : currentTurn s = .host) (hp : s.prog = .poll addr mask value :: rest)
    (hb : busReg s.params addr 4 = .ok r) : step s = .next (pollOnce r mask value s) := by
  simp only [step, fetch, ht, hostTurn, hp, hb]

/-- One step of a run. -/
theorem run_succ_of_step {s t : State} (k : Nat) (h : step s = .next t) :
    Sys2Proof.core.run (k + 1) s = Sys2Proof.core.run k t := by
  have hc : Sys2Proof.core.step s = .next t := h
  simp only [Host.Core.run, hc]

end Sys2Proof.Machine
end

