-- ==== Sys2Proof/Laws/PerInstr.lean ====
section
/-! SUPPORT. One lemma per instruction: the low two bits of its encoding are the match value of its row of
spec/opcode_table.json, in every layout. -/

namespace Sys2Proof.Laws.Selector

open Sys2Proof

/-- The low two bits of an encoded object. -/
def bits : Encoded → BitVec 2
  | .cmd w => w.extractLsb' 0 2
  | .frame fr => fieldRead fr 0 2

/-- The match value of an instruction's row. -/
def matchValue : Instr → BitVec 2
  | .nop _ => 0
  | .encode _ => 1
  | .decode _ => 2
  | .reservedOp3 _ => 3
  | .frameIndividual _ _ _ => 0
  | .frameFirstLastDeltaMid _ _ _ => 1
  | .frameLastDeltaFirstDeltaMid _ _ => 2
  | .frameUnknown _ => 3

/-- The encoding of the instruction carries its row's match value (30_encoding.md R81, R83). -/
def Statement (i : Instr) : Prop := ∀ lay : Config.Layout, bits (encode lay i) = matchValue i

/-- OP stands in the low two bits of a command word (30_encoding.md R80). -/
theorem encodeCmd_low (op : BitVec 2) (r : BitVec 30) : (encodeCmd op r).extractLsb' 0 2 = op := by
  apply BitVec.eq_of_getLsbD_eq
  intro k hk
  rw [BitVec.getLsbD_extractLsb', encodeCmd, BitVec.getLsbD_append]
  simp [hk]

theorem nop (r : BitVec 30) : Statement (.nop r) := fun _ => encodeCmd_low _ _

theorem encode (r : BitVec 30) : Statement (.encode r) := fun _ => encodeCmd_low _ _

theorem decode (r : BitVec 30) : Statement (.decode r) := fun _ => encodeCmd_low _ _

theorem reservedOp3 (r : BitVec 30) : Statement (.reservedOp3 r) := fun _ => encodeCmd_low _ _

theorem frameIndividual (p : IndPayload) (ts : TimeStamp) (k : BitVec 2) :
    Statement (.frameIndividual p ts k) := fun lay =>
  (fieldRead_fieldWrite_disjoint _ _ _ _ _ (.inl (by unfold slackOffset; omega))).trans
    (buildInd_selector lay p ts)

theorem frameFirstLastDeltaMid (p : FLPayload) (ts : TimeStamp) (k : BitVec 2) :
    Statement (.frameFirstLastDeltaMid p ts k) := fun lay =>
  (fieldRead_fieldWrite_disjoint _ _ _ _ _ (.inl (by unfold slackOffset; omega))).trans
    (buildFL_selector lay p ts)

theorem frameLastDeltaFirstDeltaMid (p : LDPayload) (ts : TimeStamp) :
    Statement (.frameLastDeltaFirstDeltaMid p ts) := fun lay => buildLD_selector lay p ts

theorem frameUnknown (rest : BitVec 142) : Statement (.frameUnknown rest) := fun _ =>
  (fieldRead_fieldWrite_disjoint _ _ _ _ _ (.inl (by omega))).trans
    (fieldRead_fieldWrite_same _ _ _ (by omega))

end Sys2Proof.Laws.Selector
end

