-- ==== Sys2Proof/Laws/Registers.lean ====
section
/-! SUPPORT. Reading a register after a write: the files of twelve (10_state.md R30, R33), the frame words
(R36), the timestamp word (R31), and which indices name a writable register (R22). -/

namespace Sys2Proof.Machine

/-- Register k reads as it was written (R30). -/
theorem regGet_regSet_same (t : Triplet (Quat Word)) (k : Fin 12) (v : Word) :
    regGet (regSet t k v) k = v := by
  fin_cases k <;> rfl

/-- A write to register k leaves the others alone (R30). -/
theorem regGet_regSet_ne (t : Triplet (Quat Word)) (k k' : Fin 12) (v : Word) (h : k' ≠ k) :
    regGet (regSet t k v) k' = regGet t k' := by
  revert h
  fin_cases k <;> fin_cases k' <;> intro h <;> first | rfl | exact absurd rfl h

/-- FRAME_x[j] with j below 4 reads as it was written (R32, R36). -/
theorem frameWord_setFrameWord_low (fr : Frame) (j : Fin 5) (v : Word) (h : j ≠ 4) :
    frameWord (setFrameWord fr j v) j = v := by
  have hj : j.val < 4 := by omega
  exact fieldRead_fieldWrite_same fr (32 * j.val) v (by omega)

/-- FRAME_x[4] keeps the low half of what is written (R32, R38). -/
theorem frameWord_setFrameWord_top (fr : Frame) (v : Word) :
    frameWord (setFrameWord fr 4 v) 4 = v &&& 0x0000FFFF#32 := by
  apply BitVec.eq_of_getLsbD_eq
  intro k hk
  have mask : ∀ k < 32, (0x0000FFFF#32).getLsbD k = decide (k < 16) := by decide
  simp only [frameWord, setFrameWord, BitVec.getLsbD_extractLsb', fieldWrite_getLsbD, BitVec.getLsbD_and,
    mask k hk]
  by_cases h16 : k < 16
  · simp [h16, hk, show 128 + k < 160 by omega, show 128 + k < 144 by omega]
  · simp [h16, show 128 + k < 160 by omega, show ¬ 128 + k < 144 by omega]

/-- A write of FRAME_x[j] leaves the other words alone (R32, R36). -/
theorem frameWord_setFrameWord_ne (fr : Frame) (j j' : Fin 5) (v : Word) (h : j' ≠ j) :
    frameWord (setFrameWord fr j v) j' = frameWord fr j' := by
  have hv : j'.val ≠ j.val := fun e => h (Fin.ext e)
  exact fieldRead_fieldWrite_disjoint fr (32 * j.val) v (32 * j'.val) 32 (by omega)

/-- TSIN keeps bits [16:0] of what is written (R31). -/
theorem tsWord_tsOfWord (v : Word) : tsWord (tsOfWord v) = v &&& 0x0001FFFF#32 := by
  apply BitVec.eq_of_getLsbD_eq
  intro k hk
  have mask : ∀ k < 32, (0x0001FFFF#32).getLsbD k = decide (k < 17) := by decide
  simp only [tsWord, tsOfWord, BitVec.getLsbD_append, BitVec.getLsbD_and, mask k hk,
    BitVec.getLsbD_extractLsb']
  by_cases h : k < 11
  · simp [h, show k < 17 by omega]
  · by_cases h2 : k < 17
    · simp [h, h2, show k - 11 < 6 by omega, show 11 + (k - 11) = k by omega]
    · simp [h, h2, show ¬ k - 11 < 6 by omega]

/-- The indices of QIN (R22). -/
theorem regOfIndex_qin {n : Nat} {k : Fin 12} (h : regOfIndex n = .qin k) :
    2 ≤ n ∧ n ≤ 13 ∧ k.val = n - 2 := by
  unfold regOfIndex at h
  repeat' split at h
  all_goals cases h
  exact ⟨by omega, by omega, rfl⟩

/-- The indices of FRAME_IN (R22). -/
theorem regOfIndex_frameIn {n : Nat} {j : Fin 5} (h : regOfIndex n = .frameIn j) :
    16 ≤ n ∧ n ≤ 20 ∧ j.val = n - 16 := by
  unfold regOfIndex at h
  repeat' split at h
  all_goals cases h
  exact ⟨by omega, by omega, rfl⟩

/-- The index of TSIN (R22). -/
theorem regOfIndex_tsin {n : Nat} (h : regOfIndex n = .tsin) : n = 14 := by
  unfold regOfIndex at h
  repeat' split at h
  all_goals cases h
  assumption

/-- Indices 2 to 13 are QIN (R22). -/
theorem regOfIndex_eq_qin {n : Nat} (h : 2 ≤ n) (h' : n ≤ 13) : ∃ k, regOfIndex n = .qin k := by
  interval_cases n <;> exact ⟨_, rfl⟩

/-- Indices 16 to 20 are FRAME_IN (R22). -/
theorem regOfIndex_eq_frameIn {n : Nat} (h : 16 ≤ n) (h' : n ≤ 20) : ∃ j, regOfIndex n = .frameIn j := by
  interval_cases n <;> exact ⟨_, rfl⟩

/-- Indices 24 to 35 are QOUT (R22). -/
theorem regOfIndex_eq_qout {n : Nat} (h : 24 ≤ n) (h' : n ≤ 35) : ∃ k, regOfIndex n = .qout k := by
  interval_cases n <;> exact ⟨_, rfl⟩

/-- Indices 40 to 44 are FRAME_OUT (R22). -/
theorem regOfIndex_eq_frameOut {n : Nat} (h : 40 ≤ n) (h' : n ≤ 44) : ∃ j, regOfIndex n = .frameOut j := by
  interval_cases n <;> exact ⟨_, rfl⟩

/-- Every register with an index of its own is found at it (R22). -/
theorem regOfIndex_indexOfReg {r : Reg} {n : Nat} (h : indexOfReg r = some n) : regOfIndex n = r := by
  cases r with
  | qin k => cases h; fin_cases k <;> rfl
  | qout k => cases h; fin_cases k <;> rfl
  | frameIn j => cases h; fin_cases j <;> rfl
  | frameOut j => cases h; fin_cases j <;> rfl
  | reserved => cases h
  | cmd => cases h; rfl
  | status => cases h; rfl
  | tsin => cases h; rfl
  | tsout => cases h; rfl

end Sys2Proof.Machine
end

