-- ==== Sys2Proof/Machine/HostProgram.lean ====
section
/-! DEFINITION. The HOST's program text (30_encoding.md R93 to R95): its lines, the expansion of its
pseudo-operations, and the operations and bus transactions it stands for. -/

namespace Sys2Proof.Machine

/-- A line of a HOST program (30_encoding.md R93, R94). -/
inductive HostLine where
  | wr (reg : Reg) (value : Word)
  | rd (reg : Reg)
  | poll (reg : Reg) (mask value : Word)
  | label (name : String)
  | encode
  | decode
  | nop
  | wait
  | ldq (s : Fin 3) (q : Quat Word)
  | ldts (ts : TimeStamp)
  | ldframe (bytes : List Byte)
deriving DecidableEq, Repr

/-- The byte address of a register (10_state.md R22). A reserved index has no mnemonic; index 15 stands
for all of them, since they act alike (R37). -/
def regAddr (base : Nat) (r : Reg) : Nat := base + 4 * (indexOfReg r).getD 15

/-- The operations of a line that is no pseudo-operation, or of the lines a pseudo-operation expands to
(30_encoding.md R93, R94). A label has none. -/
def lineOps (base : Nat) : HostLine → List HostOp
  | .wr r v => [.write (regAddr base r) 4 v]
  | .rd r => [.read (regAddr base r) 4]
  | .poll r m v => [.poll (regAddr base r) m v]
  | .label _ => []
  | .encode => [.write (regAddr base .cmd) 4 1]
  | .decode => [.write (regAddr base .cmd) 4 2]
  | .nop => [.write (regAddr base .cmd) 4 0]
  | .wait => [.poll (regAddr base .status) 3 2]
  | .ldq s q =>
    [.write (regAddr base (.qin ⟨4 * s.val, by omega⟩)) 4 q.c0,
     .write (regAddr base (.qin ⟨4 * s.val + 1, by omega⟩)) 4 q.c1,
     .write (regAddr base (.qin ⟨4 * s.val + 2, by omega⟩)) 4 q.c2,
     .write (regAddr base (.qin ⟨4 * s.val + 3, by omega⟩)) 4 q.c3]
  | .ldts ts => [.write (regAddr base .tsin) 4 (tsWord ts)]
  | .ldframe bytes =>
    [(0 : Fin 5), 1, 2, 3, 4].map fun j =>
      .write (regAddr base (.frameIn j)) 4 (frameWord (frameOfBytes bytes) j)

/-- The operations of a program. -/
def programOps (base : Nat) (lines : List HostLine) : List HostOp := lines.flatMap (lineOps base)

/-- A bus transaction (direction, byte offset, data) (30_encoding.md R95). -/
inductive Transaction where
  | write (offset : Nat) (data : Word)
  | read (offset : Nat) (data : Word)
deriving DecidableEq, Repr

/-- The transaction an operation makes in state `s`; a read's data is the value read, and a POLL makes one
read each time it is tried (30_encoding.md R93, R95). -/
def transaction (s : State) (op : HostOp) : Option Transaction :=
  match op with
  | .write addr bytes v =>
    match busReg s.params addr bytes with
    | .ok _ => some (.write (addr - s.params.base) v)
    | .error _ => none
  | .read addr bytes =>
    match busReg s.params addr bytes with
    | .ok r => some (.read (addr - s.params.base) (hostRead r s).rdata)
    | .error _ => none
  | .poll addr _ _ =>
    match busReg s.params addr 4 with
    | .ok r => some (.read (addr - s.params.base) (hostRead r s).rdata)
    | .error _ => none

end Sys2Proof.Machine
end

