-- ==== Sys2Proof/Tests/Slice0.lean ====
section
/-! SUPPORT. Tests: the well-formedness checks, words written out from the encoding tables, the vectors of
95_test_vectors.md, single steps, and for each obligation that has hypotheses a state and operands that meet
them. -/

namespace Sys2Proof.Tests

set_option Elab.async false

open Sys2Proof Sys2Proof.Machine

/-! ### Well-formedness: one ill-formed instruction for each check -/

/-- The payload of zeros, mode 0. -/
def ind0 : IndPayload :=
  let s : IndSample := { idx := 0, c := { v0 := 0, v1 := 0, v2 := 0 } }
  { samples := { first := s, mid := s, last := s } }

/-- The payload of zeros, mode 1. -/
def fl0 : FLPayload :=
  { idx := 0, f := { v0 := 0, v1 := 0, v2 := 0 }, l := { v0 := 0, v1 := 0, v2 := 0 }, sh := 0,
    d := { v0 := 0, v1 := 0, v2 := 0 } }

/-- The payload of zeros, mode 2. -/
def ld0 : LDPayload :=
  { idx := 0, l := { v0 := 0, v1 := 0, v2 := 0 }, fd := { v0 := 0, v1 := 0, v2 := 0 },
    md := { v0 := 0, v1 := 0, v2 := 0 } }

theorem test_wf_refuses_nop_reserved : (Instr.nop 1).wellFormed = false := by decide
theorem test_wf_refuses_encode_reserved : (Instr.encode 0x3FFFFFFF).wellFormed = false := by decide
theorem test_wf_refuses_decode_reserved : (Instr.decode 4).wellFormed = false := by decide
theorem test_wf_refuses_op3_reserved : (Instr.reservedOp3 2).wellFormed = false := by decide
theorem test_wf_refuses_mode0_slack : (Instr.frameIndividual ind0 zeroTs 1).wellFormed = false := by decide
theorem test_wf_refuses_mode1_slack : (Instr.frameFirstLastDeltaMid fl0 zeroTs 2).wellFormed = false := by decide
theorem test_wf_refuses_unknown_mode : (Instr.frameUnknown 0).wellFormed = false := by decide
theorem test_wf_accepts_clean :
    (Instr.nop 0).wellFormed ∧ (Instr.encode 0).wellFormed ∧ (Instr.decode 0).wellFormed
    ∧ (Instr.reservedOp3 0).wellFormed ∧ (Instr.frameIndividual ind0 zeroTs 0).wellFormed
    ∧ (Instr.frameFirstLastDeltaMid fl0 zeroTs 0).wellFormed
    ∧ (Instr.frameLastDeltaFirstDeltaMid ld0 zeroTs).wellFormed := by decide

/-! ### Decoding of written words -/

/-- The frame of five register words, word 0 first (10_state.md R36). -/
def frameOfWords (w0 w1 w2 w3 : Word) (w4 : BitVec 16) : Frame := w4 ++ w3 ++ w2 ++ w1 ++ w0

/-- V1 to V12 of 95_test_vectors.md, as their register words. -/
def v1Frame : Frame := frameOfWords 0x00000002 0 0 0x80000000 0xAAD2
def v2Frame : Frame := frameOfWords 0xFE20EC02 0x8B0FC83A 0x63D70F61 0x000000B8 0x1C32
def v3Frame : Frame := frameOfWords 0x0CD10671 0x35131342 0x9F326A21 0xE20160A3 0x3FFF
def v4Frame : Frame := frameOfWords 0x0CD10671 0x88A31342 0x99F31151 0x2583A1D4 0x0100
def v5Frame : Frame := frameOfWords 0xC50E1440 0x504D40F2 0x7CB39F13 0x66B31AD2 0x0400
def v12Frame : Frame := frameOfWords 0x80000004 0x00000D99 0x0014CD00 0xE99A0000 0x0000

-- OP in bits [1:0] (30_encoding.md R80, R81); T7 of 95_test_vectors.md for the ignored bits.
theorem test_decode_nop : decodeCmd 0b00#32 = .nop 0 := by decide
theorem test_decode_encode : decodeCmd 0xFFFFFFFD#32 = .encode 0x3FFFFFFF := by decide
theorem test_decode_decode : decodeCmd 0b10#32 = .decode 0 := by decide
theorem test_decode_reservedOp3 : decodeCmd 0b111#32 = .reservedOp3 1 := by decide

-- V5: first idx 0, C (324, 647, 971); mid idx 0; last idx 3, C (2546, 858, 1715); timestamp (3, 4).
theorem test_decode_individual : decodeFrame standardLayout v5Frame =
    .frameIndividual
      { samples :=
          { first := { idx := 0, c := { v0 := 324, v1 := 647, v2 := 971 } }
            mid := { idx := 0, c := { v0 := 618, v1 := 1236, v2 := 1854 } }
            last := { idx := 3, c := { v0 := 2546, v1 := 858, v2 := 1715 } } } }
      { start := 3, count := 4 } 0 := by decide +kernel

-- V4: F (4199, 8397, 12596), L (6282, 12565, 18847), SH 1, DS (14, 29, 44), timestamp (1, 1).
theorem test_decode_firstLastDeltaMid : decodeFrame standardLayout v4Frame =
    .frameFirstLastDeltaMid
      { idx := 0, f := { v0 := 4199, v1 := 8397, v2 := 12596 }, l := { v0 := 6282, v1 := 12565, v2 := 18847 },
        sh := 1, d := { v0 := 14, v1 := 29, v2 := 44 } }
      { start := 1, count := 1 } 0 := by decide +kernel

-- V2: L (134848, 269695, 404543), FD (492, 983, 1475), MD 0, timestamp (100, 7).
theorem test_decode_lastDeltaFirstDeltaMid : decodeFrame standardLayout v2Frame =
    .frameLastDeltaFirstDeltaMid
      { idx := 0, l := { v0 := 134848, v1 := 269695, v2 := 404543 }, fd := { v0 := 492, v1 := 983, v2 := 1475 },
        md := { v0 := 0, v1 := 0, v2 := 0 } }
      { start := 100, count := 7 } := by decide +kernel

-- F4: all 144 bits set.
theorem test_decode_unknown :
    decodeFrame standardLayout (BitVec.allOnes 144) = .frameUnknown (BitVec.allOnes 142) := by decide +kernel

-- The first bytes 02 00 … 80 D2 AA of V1, as bytes in memory order.
theorem test_decode_bytes :
    decodeBytes standardLayout .frame [2, 0, 0, 0, 0, 0, 0, 0, 0, 0, 0, 0, 0, 0, 0, 0x80, 0xD2, 0xAA] =
      .ok (.frameLastDeltaFirstDeltaMid ld0 { start := 1445, count := 42 }) := by decide +kernel

theorem test_decode_bytes_refuses_length :
    decodeBytes standardLayout .frame [2, 0, 0, 0] = .error (.frameLength 4)
    ∧ decodeBytes standardLayout .cmd [1, 0, 0] = .error (.commandLength 3) := by decide

/-- The rows of spec/opcode_table.json: 32-bit command words, and frames told by their first byte. -/
theorem test_decodeTableWord :
    decodeTableWord 32 0 = some (.nop 0) ∧ decodeTableWord 32 1 = some (.encode 0)
    ∧ decodeTableWord 32 2 = some (.decode 0) ∧ decodeTableWord 32 3 = some (.reservedOp3 0)
    ∧ decodeTableWord 8 0 = some (.frameIndividual ind0 zeroTs 0)
    ∧ decodeTableWord 8 1 = some (.frameFirstLastDeltaMid fl0 zeroTs 0)
    ∧ decodeTableWord 8 2 = some (.frameLastDeltaFirstDeltaMid ld0 zeroTs)
    ∧ decodeTableWord 8 3 = some (.frameUnknown 0)
    ∧ decodeTableWord 144 (BitVec.toNat v1Frame) =
        some (.frameLastDeltaFirstDeltaMid ld0 { start := 1445, count := 42 }) := by decide +kernel

/-! ### The rounding unit, elision and mode selection (95_test_vectors.md 2.1 to 2.3) -/

theorem test_quantize :
    quantize .towardZero 12 (-131072) = -1 ∧ quantize .towardZero 12 (-131073) = -1
    ∧ quantize .floor 12 (-131073) = -2 ∧ quantize .floor 12 (-2 ^ 31) = -8193
    ∧ quantize .towardZero 20 (-0x2D413CCD) = -741455 := by decide +kernel

theorem test_avg :
    avg .shift 0 (-2) = -2 ∧ avg .halfAway 0 (-2) = -1 ∧ avg .shift 2896 2897 = 2897
    ∧ avg .shift (-5) 0 = -3 ∧ avg .halfAway (-5) 0 = -3 := by decide +kernel

theorem test_range_and_preshift :
    fitsWithin (-512) 10 = true ∧ fitsWithin (-513) 10 = false ∧ fitsWithin (2 ^ 31 - 1) 32 = true
    ∧ preshift (-1) = -1 ∧ unshift (preshift 511) = 508
    ∧ embed 4096 13 = 0x1000 ∧ extract (0x1000 : BitVec 13) = -4096 := by decide +kernel

-- E2, E3, E6 and E9 of 95_test_vectors.md.
theorem test_elision :
    toQuat3 { c0 := 107374182, c1 := -966367642, c2 := 322122547, c3 := 322122547 } 1 =
      { v0 := -322122547, v1 := -322122547, v2 := -107374182 }
    ∧ toQuat3 { c0 := -2 ^ 31, c1 := -2 ^ 31, c2 := 0, c3 := 0 } 0 = { v0 := -2 ^ 31, v1 := 0, v2 := 0 }
    ∧ reconstruct .floor 0 { v0 := 0x2D400000, v1 := 0, v2 := 0 } =
        { c0 := 0x2D427991, c1 := 0x2D400000, c2 := 0, c3 := 0 }
    ∧ reconstruct .floor 0 { v0 := -2 ^ 31, v1 := 0, v2 := 0 } =
        { c0 := 0, c1 := -2 ^ 31, c2 := 0, c3 := 0 } := by decide +kernel

/-- The words of V2's, V4's, V5's and V6's samples. -/
def v2First : Quat Word := { c0 := 0x382A500D, c1 := 0x08334FFE, c2 := 0x10669FFD, c3 := 0x1899EFFB }
def v2Qin : Triplet (Quat Word) :=
  { first := v2First
    mid := { c0 := 0x3822735A, c1 := 0x08372779, c2 := 0x106E4EF2, c3 := 0x18A5766B }
    last := { c0 := 0x381A92FA, c1 := 0x083AFE6A, c2 := 0x1075FCD4, c3 := 0x18B0FB3D } }
def v4Qin : Triplet (Quat Word) :=
  { first := v2First
    mid := { c0 := 0x32F30976, c1 := 0x0A59FEC5, c2 := 0x14B3FD89, c3 := 0x1F0DFC4E }
    last := { c0 := 0x2C96D7BD, c1 := 0x0C452A2B, c2 := 0x188A5457, c3 := 0x24CF7E82 } }
def v5Qin : Triplet (Quat Word) :=
  { first := { c0 := 0x3D243BA8, c1 := 0x050E06BC, c2 := 0x0A1C0D77, c3 := 0x0F2A1433 }
    mid := { c0 := 0x34D24C79, c1 := 0x09A8760A, c2 := 0x1350EC13, c3 := 0x1CF9621D }
    last := { c0 := 0x27C8752D, c1 := 0x0D6609CD, c2 := 0x1ACC139A, c3 := 0x28321D67 } }
/-- V6's triplet with first[0] = `a`: V6 at one half exactly, V7 one raw unit above. -/
def v6Qin (a : Word) : Triplet (Quat Word) :=
  { first := { c0 := a, c1 := 0x1EB851EC, c2 := 0x2147AE14, c3 := 0x20000000 }
    mid := { c0 := 0x20A3D70A, c1 := 0x1F5C28F6, c2 := 0x20000000, c3 := 0x20000000 }
    last := { c0 := 0x2147AE14, c1 := 0x20000000, c2 := 0x1EB851EC, c3 := 0x20000000 } }

theorem test_encFrame_v2 :
    encFrame defaultParams (v2Qin.map quatOfWords) { start := 100, count := 7 } = v2Frame := by decide +kernel
theorem test_encFrame_v4 :
    encFrame defaultParams (v4Qin.map quatOfWords) { start := 1, count := 1 } = v4Frame := by decide +kernel
theorem test_encFrame_v5 :
    encFrame defaultParams (v5Qin.map quatOfWords) { start := 3, count := 4 } = v5Frame := by decide +kernel
theorem test_gate_boundary :
    selectMode defaultParams ((v6Qin 0x20000000).map quatOfWords) = .individual
    ∧ selectMode defaultParams ((v6Qin 0x20000001).map quatOfWords) = .firstLastDeltaMid := by decide +kernel

/-! ### Single steps -/

/-- The next state of an outcome, or reset. -/
def after (o : Host.Outcome State Fault Refusal) : State :=
  match o with
  | .next t => t
  | .fault _ => State.reset
  | .refused _ => State.reset

/-- Reset with a DECODE of an all-zero frame in flight. -/
def busyState : State := after (exec (.decode 0) State.reset)

-- T2 and T12: NOP leaves STATUS as it is, idle and busy.
theorem test_nop :
    statusWord (after (exec (.nop 0) State.reset)).status = 0
    ∧ statusWord (after (exec (.nop 0) busyState)).status = 1 := by decide +kernel
-- T4, T5: acceptance clears CMDERR and shows 0x01; a command while busy shows 0x09.
theorem test_encode :
    statusWord (after (exec (.encode 0) (raiseCmdErr State.reset))).status = 1
    ∧ statusWord (after (exec (.encode 0) busyState)).status = 9 := by decide +kernel
theorem test_encode_completes_v2 :
    let t := after (step { State.reset with
      turns := [.engine], pending := some (.encode v2Qin { start := 100, count := 7 }) })
    t.frameOut = v2Frame ∧ statusWord t.status = 0x22 := by decide +kernel
theorem test_decode :
    busyState.pending = some (.decode 0) ∧ statusWord busyState.status = 1
    ∧ statusWord (after (exec (.decode 0) busyState)).status = 9 := by decide +kernel
-- T3 and T13.
theorem test_reservedOp3 :
    statusWord (after (exec (.reservedOp3 0) State.reset)).status = 8
    ∧ statusWord (after (exec (.reservedOp3 0) busyState)).status = 9 := by decide +kernel
-- V12's frame: idx 1 for every sample, first (0xD9980000, 0x3331FFF5, 0, 0).
theorem test_frameIndividual :
    let t := after (exec (decodeFrame standardLayout v12Frame) State.reset)
    t.qout.first = { c0 := 0xD9980000, c1 := 0x3331FFF5, c2 := 0, c3 := 0 }
    ∧ t.qout.last = { c0 := 0x26680000, c1 := 0x3331FFF5, c2 := 0, c3 := 0 }
    ∧ tsWord t.tsout = 7 ∧ statusWord t.status = 0x02 := by decide +kernel
-- V4's frame: the pre-shifted mid sample.
theorem test_frameFirstLastDeltaMid :
    let t := after (exec (decodeFrame standardLayout v4Frame) State.reset)
    t.qout.mid = { c0 := 0x32F48BF9, c1 := 0x0A588000, c2 := 0x14B28000, c3 := 0x1F0D0000 }
    ∧ tsWord t.tsout = 0x801 ∧ statusWord t.status = 0x12 := by decide +kernel
-- S3: V3's frame with the slack bits set decodes to V3's outputs.
theorem test_frameFirstLastDeltaMid_slack :
    let t := after (exec (decodeFrame standardLayout (v3Frame ||| (3#144 <<< 142))) State.reset)
    t.qout.mid = { c0 := 0x368FEB44, c1 := 0x08F08000, c2 := 0x11E18000, c3 := 0x1AD20000 }
    ∧ tsWord t.tsout = 0x1FFFF := by decide +kernel
-- V2's frame.
theorem test_frameLastDeltaFirstDeltaMid :
    let t := after (exec (decodeFrame standardLayout v2Frame) State.reset)
    t.qout.first = { c0 := 0x382A5009, c1 := 0x08335000, c2 := 0x1066A000, c3 := 0x1899F000 }
    ∧ t.qout.mid = { c0 := 0x38227245, c1 := 0x08372800, c2 := 0x106E5000, c3 := 0x18A57800 }
    ∧ tsWord t.tsout = 0x3864 ∧ statusWord t.status = 0x22 := by decide +kernel
-- F3.
theorem test_frameUnknown :
    let t := after (exec (decodeFrame standardLayout 3) { State.reset with qout := v2Qin })
    t.qout = zeroQuats ∧ t.tsout = zeroTs ∧ statusWord t.status = 0x36 := by decide +kernel

-- T8, T10, T11: the writable bits.
theorem test_writable_bits :
    readReg .tsin (writeReg .tsin 0xFFFFFFFF State.reset) = 0x0001FFFF
    ∧ readReg (.frameIn 4) (writeReg (.frameIn 4) 0xFFFFFFFF State.reset) = 0x0000FFFF
    ∧ readReg (.qout 0) (writeReg (.qout 0) 0x12345678 State.reset) = 0 := by decide +kernel
-- T18.
theorem test_bus_refusals :
    busReg defaultParams 2 4 = .error .busAlignment ∧ busReg defaultParams 4 2 = .error .busWidth
    ∧ busReg defaultParams 0x100 4 = .error .busWindow ∧ busReg defaultParams 0xFC 4 = .ok .reserved := by decide

/-- The first step after reset runs an opcode-table word as its instruction. -/
theorem test_step_runs_table_word :
    statusWord (after (step (State.reset.withFetchWord 32 1))).status = 0x01
    ∧ statusWord (after (step (State.reset.withFetchWord 32 3))).status = 0x08
    ∧ statusWord (after (step (State.reset.withFetchWord 8 0))).status = 0x02
    ∧ statusWord (after (step (State.reset.withFetchWord 8 1))).status = 0x12
    ∧ statusWord (after (step (State.reset.withFetchWord 8 2))).status = 0x22
    ∧ statusWord (after (step (State.reset.withFetchWord 8 3))).status = 0x36 := by decide +kernel

-- P1 and R95: the expansions and the transactions.
theorem test_pseudo_operations :
    lineOps 0 .encode = [.write 0 4 1] ∧ lineOps 0 .decode = [.write 0 4 2] ∧ lineOps 0 .nop = [.write 0 4 0]
    ∧ lineOps 0 .wait = [.poll 4 3 2]
    ∧ lineOps 0 (.ldts { start := 100, count := 7 }) = [.write 0x38 4 0x3864]
    ∧ lineOps 0 (.ldq 1 { c0 := 1, c1 := 2, c2 := 3, c3 := 4 }) =
        [.write 0x18 4 1, .write 0x1C 4 2, .write 0x20 4 3, .write 0x24 4 4]
    ∧ transaction State.reset (.write 0x50 4 0xAAD2) = some (.write 0x50 0xAAD2) := by decide +kernel
-- P3's LDFRAME.
theorem test_ldframe :
    lineOps 0 (.ldframe [0x02, 0xEC, 0x20, 0xFE, 0x3A, 0xC8, 0x0F, 0x8B, 0x61, 0x0F, 0xD7, 0x63, 0xB8, 0, 0, 0,
      0x32, 0x1C]) =
      [.write 0x40 4 0xFE20EC02, .write 0x44 4 0x8B0FC83A, .write 0x48 4 0x63D70F61, .write 0x4C 4 0xB8,
       .write 0x50 4 0x1C32] := by decide +kernel

/-! ### Hypotheses that can be met -/

/-- A legal layout that is not the default: every payload in the reverse order. -/
def reversedLayout : Config.Layout :=
  { ind := indStandard.reverse, fl := flStandard.reverse, ld := ldStandard.reverse }

/-- The identity, exactly unit. -/
def one : Quat Int := { c0 := 2 ^ 30, c1 := 0, c2 := 0, c3 := 0 }
def ones : Triplet (Quat Int) := { first := one, mid := one, last := one }
/-- At the edge of `atMostUnit`: the raw squares sum to 2^60 + 2^39. -/
def edge : Quat Int := { c0 := 2 ^ 30, c1 := 2 ^ 19, c2 := -2 ^ 19, c3 := 0 }
/-- Just through the gate of mode 1 at index 0, the largest other component a unit quaternion can have. -/
def gated : Quat Int := { c0 := 2 ^ 29 + 1, c1 := -929887696, c2 := 0, c3 := 0 }
/-- A mid sample whose first retained component is `d` units at 15 bits from the average of `ones`. -/
def shifted (d : Int) : Triplet (Quat Int) :=
  { first := one, mid := { c0 := 2 ^ 30, c1 := d * 2 ^ 15, c2 := 0, c3 := 0 }, last := one }

theorem test_hyps_CommandSelectedByLowTwoBits :
    (0xFFFFFFFC#32).extractLsb' 0 2 = 0 ∧ (1#32).extractLsb' 0 2 = 1 ∧ (6#32).extractLsb' 0 2 = 2
    ∧ (0xFFFFFFFF#32).extractLsb' 0 2 = 3 ∧ (0xFFFFFFFF#32).extractLsb' 0 2 = (3#32).extractLsb' 0 2 := by decide
theorem test_hyps_DecodeOfEncodeIsTheInstruction :
    layoutOk standardLayout = true ∧ layoutOk reversedLayout = true := by decide
theorem test_hyps_EncodeOfDecodeIsTheObject :
    layoutOk standardLayout = true ∧ layoutOk reversedLayout = true := by decide
theorem test_hyps_LegalLayoutsKeepFieldsApart :
    layoutOk reversedLayout = true ∧ IndField.idx 0 ≠ .c 2 2 ∧ FLField.sh ≠ .d 0 ∧ LDField.l 2 ≠ .fd 0 := by decide
theorem test_hyps_BytesDecodeByLengthAlone : 0 < 18 ∧ 17 < 18 := by decide
theorem test_hyps_FrameBytesAndBitsInTheRegisters :
    (0 : Fin 5).val = 0 / 4 ∧ (4 : Fin 5).val = 17 / 4 ∧ (4 : Fin 5).val = 143 / 32 := by decide
theorem test_hyps_FieldReadIsTheSumOfItsBits :
    (1 ≤ 1 ∧ 1 ≤ 32 ∧ 143 + 1 ≤ 144) ∧ (1 ≤ 32 ∧ 32 ≤ 32 ∧ 112 + 32 ≤ 144) := by decide
theorem test_hyps_QuantizeRoundsHalfAwayFromZero :
    (12 = 12 ∨ 12 = 15 ∨ 12 = 20) ∧ isI2F30 (-2 ^ 31) ∧ isI2F30 (2 ^ 31 - 1) := by decide +kernel
theorem test_hyps_FitsWithinIsARangeTest : isI2F30 (-2 ^ 31) ∧ 1 ≤ 1 ∧ 1 ≤ 32 ∧ 32 ≤ 32 := by decide +kernel
theorem test_hyps_PreshiftFitsEightIffTen : isI2F30 (-513) ∧ isI2F30 (2 ^ 31 - 1) := by decide +kernel
theorem test_hyps_AverageModesAgreeButForNegativeEvenSums :
    -- at the two ends, and a negative odd and a negative even sum
    (-2 ^ 31 < (-2 ^ 31 : Int) + 1 ∧ (-2 ^ 31 : Int) + 1 < 2 ^ 31 - 1 ∧ ((-2 ^ 31 : Int) + 1) % 2 = 1)
    ∧ (-2 ^ 31 < (2 ^ 30 : Int) + (2 ^ 30 - 2) ∧ (2 ^ 30 : Int) + (2 ^ 30 - 2) < 2 ^ 31 - 1)
    ∧ ((-1 : Int) + -1 < 0 ∧ ((-1 : Int) + -1) % 2 = 0) := by decide +kernel
theorem test_hyps_MissingComponentIsTheClampedFloorRoot :
    (2 ^ 60 - ((2 ^ 30 : Int) ^ 2 + 0 ^ 2 + 0 ^ 2) ≤ 0) ∧ (0 : Int) < 2 ^ 60 - ((2 ^ 30 - 1) ^ 2 + 0 ^ 2 + 0 ^ 2) := by
  decide +kernel
theorem test_hyps_EveryRootIsClampedAndBounded : (2 ^ 60 : Int) ≤ (2 ^ 30) ^ 2 + 0 ^ 2 + 0 ^ 2 := by decide +kernel
theorem test_hyps_LargestComponentLowestIndex :
    (0 : Fin 4) < maxAbsIdx { c0 := 1, c1 := -2, c2 := 2, c3 := 0 } := by decide +kernel
theorem test_hyps_UnitElisionBounds :
    (∀ c : Fin 4, -2 ^ 31 < (quatOfWords v2First).get c ∧ (quatOfWords v2First).get c < 2 ^ 31)
    ∧ 2 ^ 60 ≤ normSq edge ∧ normSq gated ≤ 2 ^ 60 ∧ normSq { c0 := -2 ^ 29, c1 := 2 ^ 29, c2 := 2 ^ 29, c3 := -2 ^ 29 } = 2 ^ 60 := by
  decide +kernel
theorem test_hyps_ReconstructInvertsElision :
    (∀ c : Fin 4, -2 ^ 31 < one.get c ∧ one.get c < 2 ^ 31) ∧ isUnit one ∧ (1 : Fin 4) ≠ 0 := by decide +kernel
theorem test_hyps_IndividualAlwaysFitsUnitInputs :
    atMostUnit edge ∧ atMostUnit (quatOfWords v2First) ∧ normSq gated ≤ 2 ^ 60 := by decide +kernel
/-- The premises of both clauses, and R198's bound reached: -28378 in the gated quaternion's field. -/
theorem test_hyps_UnitFieldsStayInsideTheirWidths :
    defaultParams.quantTrunc = .towardZero
    ∧ (let q := v2Qin.map quatOfWords
       (∀ s : Fin 3, quatI2F30 (q.get s)) ∧ atMostUnit q.mid
       ∧ okLD defaultParams (samplesAt defaultParams 20 q) = true)
    ∧ (let q : Triplet (Quat Int) := { first := gated, mid := one, last := gated }
       (∀ s : Fin 3, quatI2F30 (q.get s)) ∧ normSq q.first ≤ 2 ^ 60 ∧ atMostUnit q.first ∧ atMostUnit q.last
       ∧ gateFL q (sharedIdx q) = true ∧ (samplesAt defaultParams 15 q).first.get 0 = -28378) := by
  decide +kernel
theorem test_hyps_EncodedFrameDecodesToItsFields : layoutOk { defaultParams with layout := reversedLayout }.layout := by
  decide
theorem test_hyps_RoundTripLastDeltaFirstDeltaMid :
    let q := v2Qin.map quatOfWords
    quatI2F30 q.first ∧ atMostUnit q.mid ∧ quatI2F30 q.last
    ∧ okLD defaultParams (samplesAt defaultParams 20 q) = true := by decide +kernel
theorem test_hyps_RoundTripFirstLastDeltaMid :
    (∀ d ∈ [-128, 127, 511, -512],
      atMostUnit (shifted d).first ∧ quatI2F30 (shifted d).mid ∧ atMostUnit (shifted d).last
      ∧ okFL defaultParams (shifted d) (sharedIdx (shifted d)) (samplesAt defaultParams 15 (shifted d)) = true)
    ∧ shFlag (midDelta defaultParams (samplesAt defaultParams 15 (shifted 511))) = true
    ∧ shFlag (midDelta defaultParams (samplesAt defaultParams 15 (shifted 127))) = false
    ∧ (let q := v4Qin.map quatOfWords
       atMostUnit q.first ∧ quatI2F30 q.mid ∧ atMostUnit q.last
       ∧ okFL defaultParams q (sharedIdx q) (samplesAt defaultParams 15 q) = true) := by decide +kernel
theorem test_hyps_RoundTripIndividual : atMostUnit edge ∧ atMostUnit (quatOfWords v2First) := by decide +kernel
theorem test_hyps_SlackBitsNeverAffectADecode :
    layoutOk standardLayout = true ∧ fieldRead v5Frame 0 2 = 0 ∧ fieldRead v3Frame 0 2 = 1
    ∧ ∀ k : Nat, k < 142 → v3Frame.getLsbD k = (v3Frame ||| (3#144 <<< 142)).getLsbD k := by decide +kernel

theorem test_hyps_EncodeIsAcceptedWhenIdle : State.reset.status.busy = false := by decide
theorem test_hyps_DecodeIsAcceptedWhenIdle : State.reset.status.busy = false := by decide
theorem test_hyps_CommandWhileBusyIsDropped :
    busyState.status.busy = true ∧ currentTurn { busyState with turns := busyState.turns.tail } = .engine := by
  decide +kernel
theorem test_hyps_ReservedOpSetsCmdErrOnly :
    currentTurn { busyState with turns := busyState.turns.tail } = .engine := by decide +kernel
theorem test_hyps_UnknownFrameFailsWhateverItsOtherBits : fieldRead (BitVec.allOnes 144) 0 2 = 3 := by decide +kernel
theorem test_hyps_IndividualFieldsOfTheDefaultFrame : fieldRead v5Frame 0 2 = 0 := by decide +kernel
theorem test_hyps_DeltaFieldsOfTheDefaultFrame :
    fieldRead v4Frame 0 2 = 1 ∧ fieldRead v2Frame 0 2 = 2 := by decide +kernel

/-- Reset with a program and a schedule. -/
def run (prog : List HostOp) (turns : List Turn) : State := { State.reset with prog := prog, turns := turns }
/-- Reset with an ENCODE of zeros in flight on the ENGINE's turn. -/
def encoding : State :=
  { State.reset with
    status := { State.reset.status with busy := true }, pending := some (.encode zeroQuats zeroTs),
    turns := [.engine] }
/-- Reset with a DECODE of a frame in flight on the ENGINE's turn. -/
def decoding (fr : Frame) : State := placeFrame State.reset fr

theorem test_hyps_StepRunsTheDecodedInstruction :
    (let s := run [.write 0 4 1] [.host]
     s.params.base % 4 = 0 ∧ currentTurn s = .host ∧ s.prog = .write s.params.base 4 1 :: [])
    ∧ currentTurn (decoding v2Frame) = .engine ∧ (decoding v2Frame).pending = some (.decode v2Frame) := by
  decide +kernel
theorem test_hyps_EngineCompletesEncode :
    currentTurn encoding = .engine ∧ encoding.pending = some (.encode zeroQuats zeroTs) := by decide +kernel
theorem test_hyps_EncodeRunsToItsFrame :
    let s := run [.write 0 4 1] [.host, .engine]
    s.params.base % 4 = 0 ∧ s.status.busy = false ∧ (1 : Word).extractLsb' 0 2 = 1
    ∧ s.prog = .write s.params.base 4 1 :: [] ∧ s.turns = .host :: .engine :: [] := by decide +kernel
/-- Each boundary index of the operand registers, with a DECODE and with an ENCODE. -/
theorem test_hyps_DecodeIgnoresLaterOperandWrites :
    ∀ n ∈ [2, 13, 14, 16, 19, 20], ∀ op ∈ [1, 2],
      let w := BitVec.ofNat 32 op
      let s := run [.write 0 4 w, .write (4 * n) 4 7] [.host, .host, .engine]
      s.params.base % 4 = 0 ∧ s.status.busy = false ∧ ((2 ≤ n ∧ n ≤ 14) ∨ (16 ≤ n ∧ n ≤ 20))
      ∧ (w.extractLsb' 0 2 = 1 ∨ w.extractLsb' 0 2 = 2)
      ∧ s.prog = .write s.params.base 4 w :: .write (s.params.base + 4 * n) 4 7 :: []
      ∧ s.turns = .host :: .host :: .engine :: [] := by decide +kernel
theorem test_hyps_ResultsAreIndependentOfHistory :
    let s := decoding v2Frame
    let s' : State := { s with qout := v2Qin, frameIn := v3Frame }
    s.params = s'.params ∧ s.pending = s'.pending ∧ s.pending ≠ none ∧ currentTurn s = .engine
    ∧ currentTurn s' = .engine ∧ (∃ t, step s = .next t) ∧ ∃ t', step s' = .next t' :=
  ⟨rfl, rfl, by decide +kernel, rfl, rfl, ⟨_, rfl⟩, ⟨_, rfl⟩⟩
theorem test_hyps_ControlInvariantIsKept :
    controlOk (decoding 3) ∧ ∃ t, step (decoding 3) = .next t := ⟨by decide +kernel, ⟨_, rfl⟩⟩
theorem test_hyps_ParametersNeverChange : ∃ t, step encoding = .next t := ⟨_, rfl⟩
theorem test_hyps_BusyChangesOnlyAsStated :
    (∃ t, step (run [.write 0 4 2] []) = .next t ∧ t.status.busy = true ∧ t.pending ≠ none
      ∧ controlOk (run [.write 0 4 2] []))
    ∧ ∃ t, step (decoding 3) = .next t ∧ t.status.busy = false ∧ t.pending ≠ (decoding 3).pending
        ∧ controlOk (decoding 3) :=
  ⟨⟨_, rfl, by decide +kernel, by decide +kernel, by decide +kernel⟩,
    ⟨_, rfl, by decide +kernel, by decide +kernel, by decide +kernel⟩⟩
/-- The state after the failed DECODE of a frame of mode code 3, with an ENCODE to write next. -/
def failed : State := { after (step (decoding 3)) with prog := [.write 0 4 1] }
/-- A state without the control invariant: DEC_FAIL is 1 with the DECODE of a mode 0 frame in flight. -/
def stale : State := { decoding 0 with status := { (decoding 0).status with decFail := true } }

theorem test_hyps_ModeAndCmdErrChangeOnlyAsStated :
    (∃ t, step (decoding 3) = .next t ∧ t.status.mode ≠ (decoding 3).status.mode
      ∧ t.status.done = true ∧ (decoding 3).status.done = false
      ∧ t.status.decFail = true ∧ (decoding 3).status.decFail = false)
    ∧ (∃ t, step (run [.write 0 4 3] []) = .next t ∧ t.status.cmdErr = true)
    ∧ (∃ t, step { run [.write 0 4 1] [] with status := cmdErrStatus resetStatus } = .next t
        ∧ t.status.cmdErr = false)
    ∧ (∃ t, step failed = .next t ∧ t.status.done = false ∧ failed.status.done = true
        ∧ t.status.decFail = false ∧ failed.status.decFail = true)
    ∧ ∃ t, step stale = .next t ∧ t.status.decFail = false ∧ stale.status.decFail = true :=
  ⟨⟨_, rfl, by decide +kernel⟩, ⟨_, rfl, by decide +kernel⟩, ⟨_, rfl, by decide +kernel⟩,
    ⟨_, rfl, by decide +kernel⟩, ⟨_, rfl, by decide +kernel⟩⟩
theorem test_hyps_ResultRegistersChangeOnlyByTheirCompletion :
    (∃ t, step (decoding 0) = .next t ∧ t.qout ≠ (decoding 0).qout)
    ∧ (∃ t, step encoding = .next t ∧ t.frameOut ≠ encoding.frameOut)
    ∧ (∃ t, step (run [.write 0x34 4 7] []) = .next t ∧ regGet t.qin 11 ≠ 0)
    ∧ (∃ t, step (run [.write 0x38 4 7] []) = .next t ∧ t.tsin ≠ zeroTs)
    ∧ ∃ t, step (run [.write 0x50 4 7] []) = .next t ∧ frameWord t.frameIn 4 ≠ 0 :=
  ⟨⟨_, rfl, by decide +kernel⟩, ⟨_, rfl, by decide +kernel⟩, ⟨_, rfl, by decide +kernel⟩,
    ⟨_, rfl, by decide +kernel⟩, ⟨_, rfl, by decide +kernel⟩⟩
theorem test_hyps_ResetClearsTheBlockFromAnyState :
    currentTurn { encoding with turns := [.reset] } = .reset := by decide
/-- A write at each boundary index of the statement's clauses. -/
theorem test_hyps_HostWriteStoresTheWritableBits :
    ∀ n ∈ [1, 2, 13, 14, 15, 16, 19, 20, 21, 24, 63],
      let s := run [.write (4 * n) 4 7] []
      0 < n ∧ n < 64 ∧ s.params.base % 4 = 0 ∧ currentTurn s = .host
      ∧ s.prog = .write (s.params.base + 4 * n) 4 7 :: [] := by decide +kernel
/-- A read at each boundary index of the statement's clauses, idle and busy. -/
theorem test_hyps_HostReadReturnsTheRegister :
    ∀ n ∈ [0, 23, 24, 36, 37, 39, 40, 44, 45, 63],
      let s := run [.read (4 * n) 4] [.host]
      let b : State := { s with status := { s.status with busy := true } }
      n < 64 ∧ s.params.base % 4 = 0 ∧ currentTurn s = .host ∧ currentTurn b = .host ∧ b.status.busy = true
      ∧ s.prog = .read (s.params.base + 4 * n) 4 :: [] := by decide +kernel
theorem test_hyps_RefusedExactlyOutsideTheContract :
    State.reset.params.base % 4 = 0
    ∧ step (run [.read 0x100 4] []) = .refused .busWindow ∧ step (run [.read 0xFC 4] []) ≠ .refused .busWindow :=
  ⟨rfl, rfl, by simp [run, step, fetch, currentTurn, hostTurn, State.reset, busReg, defaultParams]⟩
/-- A POLL at each boundary index of the statement's clauses, idle and busy. -/
theorem test_hyps_PollRepeatsUntilTheValue :
    ∀ n ∈ [0, 1, 23, 24, 36, 37, 39, 40, 44, 45, 63],
      let s := run [.poll (4 * n) 3 2] [.host]
      let b : State := { s with status := { s.status with busy := true } }
      n < 64 ∧ s.params.base % 4 = 0 ∧ currentTurn s = .host ∧ currentTurn b = .host ∧ b.status.busy = true
      ∧ s.prog = .poll (s.params.base + 4 * n) 3 2 :: [] := by decide +kernel
/-- A command in flight, without and with a reset in the schedule. -/
theorem test_hyps_EveryAcceptedCommandCompletes :
    ∀ turns ∈ [[], [.host], [.host, .engine, .host], [.host, Turn.reset]],
      let s : State := { decoding v2Frame with prog := [.poll 4 3 2, .write 0xFC 4 0], turns := turns }
      controlOk s ∧ programOk s ∧ s.status.busy = true ∧ (turns.length < 2 → Turn.reset ∉ s.turns) := by
  decide +kernel
theorem test_hyps_ReservedBitsReadZero :
    ∀ n ∈ [15, 21, 23, 37, 39, 45, 63],
      n = 15 ∨ (21 ≤ n ∧ n ≤ 23) ∨ (37 ≤ n ∧ n ≤ 39) ∨ (45 ≤ n ∧ n ≤ 63) := by decide
theorem test_hyps_FrameBytesAtConsecutiveAddresses : 0 < 18 ∧ 17 < 18 := by decide

end Sys2Proof.Tests
end

section
/-! PROOFS. The statements of 00_scope.md: the fields of a legal PAYLOAD_LAYOUT (O7), the integer square
root (O14) and the open parameters along a step (O48). -/

namespace Sys2Proof

/-! ### The fields of a layout (00_scope.md R7) -/

/-- Two fields of an order do not overlap: the one that comes first ends before the other begins. -/
theorem offsetIn_disjoint {F : Type} [DecidableEq F] (width : F → Nat) (order : List F) (off : Nat) {f g : F}
    (hf : f ∈ order) (hg : g ∈ order) (hne : f ≠ g) :
    offsetIn width order off f + width f ≤ offsetIn width order off g
    ∨ offsetIn width order off g + width g ≤ offsetIn width order off f := by
  induction order generalizing off with
  | nil => simp at hf
  | cons x xs ih =>
    by_cases hxf : x = f
    · subst hxf
      simpa [offsetIn, hne] using .inl (le_offsetIn width xs (off + width x) g)
    · by_cases hxg : x = g
      · subst hxg
        simpa [offsetIn, hxf] using .inr (le_offsetIn width xs (off + width x) f)
      · simpa only [offsetIn, if_neg hxf, if_neg hxg] using
          ih (off + width x) (List.mem_of_ne_of_mem (Ne.symm hxf) hf) (List.mem_of_ne_of_mem (Ne.symm hxg) hg)

/-- A field of an order lies between the bit the payload begins at and the payload's end. -/
theorem offsetIn_bounds {F : Type} [DecidableEq F] (width : F → Nat) (order : List F) (off : Nat) {total : Nat}
    {f : F} (hf : f ∈ order) (htotal : (order.map width).sum = total) :
    off ≤ offsetIn width order off f ∧ offsetIn width order off f + width f ≤ off + total :=
  ⟨le_offsetIn width order off f, htotal ▸ offsetIn_end width order off f hf⟩

/-- Settles O7: a legal layout lists every field of each mode, and its fields are as wide together as the
payload (30_encoding.md R84). -/
theorem legalLayoutsKeepFieldsApart : Obligations.LegalLayoutsKeepFieldsApart := by
  intro lay h
  refine ⟨fun f g => ?_, fun f => ?_, fun f g => ?_, fun f => ?_, fun f g => ?_, fun f => ?_⟩
  · exact offsetIn_disjoint _ _ _ (mem_ind h f) (mem_ind h g)
  · exact offsetIn_bounds _ _ _ (mem_ind h f) (ind_totalWidth h)
  · exact offsetIn_disjoint _ _ _ (mem_fl h f) (mem_fl h g)
  · exact offsetIn_bounds _ _ _ (mem_fl h f) (fl_totalWidth h)
  · exact offsetIn_disjoint _ _ _ (mem_ld h f) (mem_ld h g)
  · exact offsetIn_bounds _ _ _ (mem_ld h f) (ld_totalWidth h)

end Sys2Proof

namespace Sys2Proof.Machine

/-! ### The integer square root (00_scope.md R10) -/

/-- The loop's invariant: while the root lies in [m, m + 2^b), the bits below b make it exact. -/
theorem isqrtBits_spec (b n m : Nat) (hle : m * m ≤ n) (hlt : n < (m + 2 ^ b) * (m + 2 ^ b)) :
    isqrtBits b n m * isqrtBits b n m ≤ n ∧ n < (isqrtBits b n m + 1) * (isqrtBits b n m + 1) := by
  induction b generalizing m with
  | zero => exact ⟨hle, hlt⟩
  | succ b ih =>
    rw [isqrtBits]
    by_cases hbit : (m + 2 ^ b) * (m + 2 ^ b) ≤ n
    · rw [if_pos hbit]
      refine ih _ hbit ?_
      rwa [Nat.add_assoc, ← Nat.two_mul, ← Nat.pow_succ']
    · rw [if_neg hbit]
      exact ih _ hle (Nat.lt_of_not_le hbit)

/-- The highest bit tried is high enough: the root of `n` has at most log2 n / 2 + 1 bits. -/
theorem lt_sq_of_log2 (n : Nat) : n < 2 ^ (n.log2 / 2 + 1) * 2 ^ (n.log2 / 2 + 1) :=
  calc n < 2 ^ (n.log2 + 1) := Nat.lt_log2_self
    _ ≤ 2 ^ (n.log2 / 2 + 1 + (n.log2 / 2 + 1)) := Nat.pow_le_pow_right (by decide) (by omega)
    _ = 2 ^ (n.log2 / 2 + 1) * 2 ^ (n.log2 / 2 + 1) := Nat.pow_add ..

/-- Settles O14, by the invariant of the bitwise loop from m = 0. -/
theorem isqrtIsTheFloorRoot : Obligations.IsqrtIsTheFloorRoot := fun n =>
  isqrtBits_spec _ n 0 (Nat.zero_le n) (by simpa only [Nat.zero_add] using lt_sq_of_log2 n)

/-! ### The open parameters along a step (00_scope.md R7; LOG 6) -/

@[simp] theorem issue_params (op : Op) (s : State) : (issue op s).params = s.params := by
  obtain ⟨_, h⟩ | ⟨_, h⟩ := issue_cases op s
  · rw [h, raiseCmdErr_params]
  · rw [h, accept_params]

@[simp] theorem hostRead_params (r : Reg) (s : State) : (hostRead r s).params = s.params := by
  rw [hostRead_eq]

@[simp] theorem writeReg_params (r : Reg) (v : Word) (s : State) : (writeReg r v s).params = s.params := by
  rw [writeReg_eq]

@[simp] theorem pollOnce_params (r : Reg) (mask value : Word) (s : State) :
    (pollOnce r mask value s).params = s.params := by
  simp only [pollOnce]
  split
  · rw [advanceHost_params, hostRead_params]
  · rw [advanceTurn_params, hostRead_params]

@[simp] theorem completeEncode_params (q : Triplet (Quat Word)) (ts : TimeStamp) (s : State) :
    (completeEncode q ts s).params = s.params := rfl

@[simp] theorem completeDecode_params (m : Mode) (q : Triplet (Quat Int)) (ts : TimeStamp) (s : State) :
    (completeDecode m q ts s).params = s.params := rfl

@[simp] theorem completeFail_params (s : State) : (completeFail s).params = s.params := rfl

/-- A command word's instruction keeps the parameters, whatever its OP. -/
theorem exec_decodeCmd_params {w : Word} {s t : State} (h : exec (decodeCmd w) s = .next t) :
    t.params = s.params := by
  obtain ⟨_, e⟩ | ⟨_, e⟩ | ⟨_, e⟩ | ⟨_, e⟩ := exec_decodeCmd_cases w s <;>
    cases e.symm.trans h <;> simp only [advanceHost_params, issue_params, raiseCmdErr_params]

/-- A frame's instruction keeps the parameters, whether the DECODE fails or not. -/
theorem exec_decodeFrame_params {lay : Config.Layout} {fr : Frame} {s t : State}
    (h : exec (decodeFrame lay fr) s = .next t) : t.params = s.params := by
  obtain ⟨m, q, ts, _, _, e⟩ | ⟨_, e⟩ := exec_decodeFrame_cases lay fr s
  · cases e.symm.trans h
    exact completeDecode_params m q ts s
  · cases e.symm.trans h
    exact completeFail_params s

/-- An ENGINE turn keeps the parameters. -/
theorem EngineTurn.params_eq {s t : State} (h : EngineTurn s t) : t.params = s.params := by
  cases h with
  | idle => exact advanceTurn_params s
  | encode q ts => exact completeEncode_params q ts s
  | decode fr _ _ he => exact exec_decodeFrame_params he

/-- A HOST turn keeps the parameters. -/
theorem HostTurn.params_eq {s t : State} (h : HostTurn s t) : t.params = s.params := by
  cases h with
  | idle => exact advanceTurn_params s
  | read _ _ _ r => rw [advanceHost_params, hostRead_params]
  | write _ _ v _ r => rw [advanceHost_params, writeReg_params]
  | command _ _ _ _ _ _ _ he => exact exec_decodeCmd_params he
  | poll _ mask value _ r => exact pollOnce_params r mask value s

/-- Settles O48, by the cases of a step: reset, the ENGINE's turn, the HOST's turn. -/
theorem parametersNeverChange : Obligations.ParametersNeverChange := by
  intro s t h
  obtain ⟨_, rfl⟩ | ⟨_, hengine⟩ | ⟨_, hhost⟩ := step_cases h
  · rw [advanceTurn_params, resetBlock_params]
  · exact hengine.params_eq
  · exact hhost.params_eq

end Sys2Proof.Machine
end

section
/-! PROOFS. The statements of 10_state.md: the words of the window (O8, O58, O59), HOST writes to it (O53), the
control invariant (O46), the events at which a register may change (O49, O50, O51), and the operand snapshot
(O44). -/

namespace Sys2Proof.Machine

/-! ### The words of the window (10_state.md R24, R31, R36, R38) -/

/-- Bits [31:6] of STATUS are reserved (R24). -/
theorem statusWord_reserved (st : Status) : (statusWord st).extractLsb' 6 26 = 0 := by
  apply BitVec.eq_of_getLsbD_eq
  intro i hi
  simp only [statusWord, BitVec.getLsbD_extractLsb', BitVec.getLsbD_append]
  simp

/-- MODE stands above the four flags of STATUS (R24). -/
theorem statusWord_mode (st : Status) : (statusWord st).extractLsb' 4 2 = st.mode.code := by
  apply BitVec.eq_of_getLsbD_eq
  intro i hi
  simp only [statusWord, BitVec.getLsbD_extractLsb', BitVec.getLsbD_append]
  simp [hi]

/-- The four flags of STATUS, from bit 0 up (R24). -/
theorem statusWord_flags (st : Status) :
    (statusWord st).getLsbD 0 = st.busy ∧ (statusWord st).getLsbD 1 = st.done
    ∧ (statusWord st).getLsbD 2 = st.decFail ∧ (statusWord st).getLsbD 3 = st.cmdErr := by
  simp only [statusWord, BitVec.getLsbD_append]
  simp

/-- Settles O58: the word is below 2^6 because its reserved bits are 0. -/
theorem statusFieldsInTheWord : Obligations.StatusFieldsInTheWord := by
  intro st
  obtain ⟨hbusy, hdone, hdecFail, hcmdErr⟩ := statusWord_flags st
  refine ⟨hbusy, hdone, hdecFail, hcmdErr, statusWord_mode st, ?_⟩
  have hreserved : (statusWord st).toNat / 2 ^ 6 % 2 ^ 26 = 0 := by
    simpa [Nat.shiftRight_eq_div_pow] using congrArg BitVec.toNat (statusWord_reserved st)
  omega

/-- Bits [31:17] of a timestamp register are reserved (R31). -/
theorem tsWord_reserved (ts : TimeStamp) : (tsWord ts).extractLsb' 17 15 = 0 := by
  apply BitVec.eq_of_getLsbD_eq
  intro i hi
  simp only [tsWord, BitVec.getLsbD_extractLsb', BitVec.getLsbD_append]
  simp [show ¬ 17 + i < 11 by omega, show ¬ 17 + i - 11 < 6 by omega]

/-- Bit i of a frame word is frame bit 32j + i (R36). -/
theorem frameWord_getLsbD (fr : Frame) (j : Fin 5) (i : Nat) :
    (frameWord fr j).getLsbD i = (decide (i < 32) && fr.getLsbD (32 * j.val + i)) :=
  BitVec.getLsbD_extractLsb' ..

/-- Bits [31:16] of the last frame word are reserved: the frame ends at bit 143 (R36, R38). -/
theorem frameWord_reserved (fr : Frame) : (frameWord fr 4).extractLsb' 16 16 = 0 := by
  apply BitVec.eq_of_getLsbD_eq
  intro i hi
  have hpast : fr.getLsbD (32 * (4 : Fin 5).val + (16 + i)) = false := BitVec.getLsbD_of_ge fr _ (by norm_num; omega)
  rw [BitVec.getLsbD_extractLsb', frameWord_getLsbD, hpast]
  simp

/-- Frame bit k is bit k mod 32 of word k div 32 (R36). -/
theorem frameWord_bit (fr : Frame) (j : Fin 5) (k : Nat) (hj : j.val = k / 32) :
    (frameWord fr j).getLsbD (k % 32) = fr.getLsbD k := by
  rw [frameWord_getLsbD, hj, Nat.div_add_mod]
  simp [Nat.mod_lt]

/-- A bit range that lies inside one frame word is that range of the frame (R36). -/
theorem frameWord_extract (fr : Frame) (j : Fin 5) (off W : Nat) (h : off + W ≤ 32) :
    (frameWord fr j).extractLsb' off W = fieldRead fr (32 * j.val + off) W := by
  apply BitVec.eq_of_getLsbD_eq
  intro i hi
  have hin : off + i < 32 := by omega
  rw [BitVec.getLsbD_extractLsb', frameWord_getLsbD, fieldRead_getLsbD, Nat.add_assoc]
  simp [hin]

/-- Frame byte b is byte b mod 4 of word b div 4 (R36). -/
theorem frameWord_byte (fr : Frame) (j : Fin 5) (b : Nat) (hj : j.val = b / 4) :
    (frameWord fr j).extractLsb' (8 * (b % 4)) 8 = frameByte fr b := by
  have hplace : 32 * j.val + 8 * (b % 4) = 8 * b := by omega
  rw [frameWord_extract _ _ _ _ (by omega), hplace]
  rfl

/-- Settles O8, for FRAME_IN and FRAME_OUT by the same facts about a frame's words. -/
theorem frameBytesAndBitsInTheRegisters : Obligations.FrameBytesAndBitsInTheRegisters := by
  intro s j
  refine ⟨fun b _ hj => ?_, fun k _ hj => ?_, ?_⟩
  · exact ⟨frameWord_byte s.frameIn j b hj, frameWord_byte s.frameOut j b hj⟩
  · exact ⟨frameWord_bit s.frameIn j k hj, frameWord_bit s.frameOut j k hj⟩
  · exact frameWord_extract s.frameOut 0 0 2 (by omega)

/-- The indices that name no register (R22). -/
theorem regOfIndex_reserved {n : Nat}
    (h : n = 15 ∨ (21 ≤ n ∧ n ≤ 23) ∨ (37 ≤ n ∧ n ≤ 39) ∨ (45 ≤ n ∧ n ≤ 63)) : regOfIndex n = .reserved := by
  grind [regOfIndex]

/-- Settles O59. -/
theorem reservedBitsReadZero : Obligations.ReservedBitsReadZero := by
  intro s
  refine ⟨rfl, statusWord_reserved _, tsWord_reserved _, tsWord_reserved _, frameWord_reserved _,
    frameWord_reserved _, fun n hn => ?_⟩
  rw [regOfIndex_reserved hn]
  rfl

/-! ### A HOST write to a register (10_state.md R30 to R32, R37 to R39) -/

/-- An index that names a register is that register's own (R22). -/
theorem indexOfReg_regOfIndex {n : Nat} (h : regOfIndex n ≠ .reserved) :
    indexOfReg (regOfIndex n) = some n := by
  revert h
  unfold regOfIndex
  repeat' split
  all_goals intro h; simp_all [indexOfReg]

/-- Only index 0 is CMD (R22). -/
theorem regOfIndex_ne_cmd {n : Nat} (h : 0 < n) : regOfIndex n ≠ .cmd := by
  intro hcmd
  have hindex := indexOfReg_regOfIndex (n := n) (by simp [hcmd])
  rw [hcmd] at hindex
  exact h.ne (Option.some.inj hindex)

/-- What a register that held `old` reads as after a HOST write of `v` (R30 to R32, R37 to R39). -/
def storedWord (r : Reg) (v old : Word) : Word :=
  match r with
  | .qin _ => v
  | .tsin => v &&& 0x0001FFFF#32
  | .frameIn j => if j = 4 then v &&& 0x0000FFFF#32 else v
  | .cmd => old
  | .status => old
  | .qout _ => old
  | .tsout => old
  | .frameOut _ => old
  | .reserved => old

/-- A write stores the writable bits of the register written (R30 to R32, R37 to R39). -/
theorem readReg_writeReg_same (r : Reg) (v : Word) (s : State) :
    readReg r (writeReg r v s) = storedWord r v (readReg r s) := by
  cases r with
  | qin k => exact regGet_regSet_same s.qin k v
  | tsin => exact tsWord_tsOfWord v
  | frameIn j =>
    simp only [storedWord]
    split
    · next hj => subst hj; exact frameWord_setFrameWord_top s.frameIn v
    · next hj => exact frameWord_setFrameWord_low s.frameIn j v hj
  | cmd | status | qout | tsout | frameOut | reserved => rfl

/-- A write leaves every other register as it reads (R37 to R39). -/
theorem readReg_writeReg_ne {r r' : Reg} (v : Word) (s : State) (h : r' ≠ r) :
    readReg r' (writeReg r v s) = readReg r' s := by
  cases r with
  | qin k =>
    cases r' with
    | qin k' => exact regGet_regSet_ne s.qin k k' v (fun e => h (congrArg Reg.qin e))
    | _ => rfl
  | frameIn j =>
    cases r' with
    | frameIn j' => exact frameWord_setFrameWord_ne s.frameIn j j' v (fun e => h (congrArg Reg.frameIn e))
    | _ => rfl
  | tsin =>
    cases r' with
    | tsin => exact absurd rfl h
    | _ => rfl
  | _ => rfl

/-- A write at one index leaves every other index as it reads, the reserved ones too (R37). -/
theorem readReg_writeReg_index_ne {m n : Nat} (v : Word) (s : State) (h : m ≠ n) :
    readReg (regOfIndex m) (writeReg (regOfIndex n) v s) = readReg (regOfIndex m) s := by
  by_cases hm : regOfIndex m = .reserved
  · rw [hm]
    rfl
  · refine readReg_writeReg_ne v s fun e => h ?_
    have hindex : some m = some n := by
      rw [← indexOfReg_regOfIndex hm, e, indexOfReg_regOfIndex (e ▸ hm)]
    exact Option.some.inj hindex

/-- The writable bits by index (R22, R30 to R32, R38). -/
theorem storedWord_regOfIndex (n : Nat) (v old : Word) :
    storedWord (regOfIndex n) v old =
      if 2 ≤ n ∧ n ≤ 13 then v
      else if n = 14 then v &&& 0x0001FFFF#32
      else if 16 ≤ n ∧ n ≤ 19 then v
      else if n = 20 then v &&& 0x0000FFFF#32
      else old := by
  split
  · next h =>
    obtain ⟨k, hk⟩ := regOfIndex_eq_qin h.1 h.2
    rw [hk]
    rfl
  split
  · next h => subst h; rfl
  split
  · next h =>
    obtain ⟨j, hj⟩ := regOfIndex_eq_frameIn h.1 (by omega)
    obtain ⟨_, _, hval⟩ := regOfIndex_frameIn hj
    have hlow : j ≠ 4 := by omega
    rw [hj]
    exact if_neg hlow
  split
  · next h => subst h; rfl
  cases hr : regOfIndex n with
  | qin k => have := regOfIndex_qin hr; omega
  | tsin => have := regOfIndex_tsin hr; omega
  | frameIn j => have := regOfIndex_frameIn hr; omega
  | cmd | status | qout | tsout | frameOut | reserved => rfl

@[simp] theorem writeReg_status (r : Reg) (v : Word) (s : State) : (writeReg r v s).status = s.status := by
  rw [writeReg_eq]
@[simp] theorem writeReg_qout (r : Reg) (v : Word) (s : State) : (writeReg r v s).qout = s.qout := by
  rw [writeReg_eq]
@[simp] theorem writeReg_tsout (r : Reg) (v : Word) (s : State) : (writeReg r v s).tsout = s.tsout := by
  rw [writeReg_eq]
@[simp] theorem writeReg_frameOut (r : Reg) (v : Word) (s : State) : (writeReg r v s).frameOut = s.frameOut := by
  rw [writeReg_eq]
@[simp] theorem writeReg_pending (r : Reg) (v : Word) (s : State) : (writeReg r v s).pending = s.pending := by
  rw [writeReg_eq]
@[simp] theorem writeReg_prog (r : Reg) (v : Word) (s : State) : (writeReg r v s).prog = s.prog := by
  rw [writeReg_eq]
@[simp] theorem writeReg_turns (r : Reg) (v : Word) (s : State) : (writeReg r v s).turns = s.turns := by
  rw [writeReg_eq]
@[simp] theorem writeReg_rdata (r : Reg) (v : Word) (s : State) : (writeReg r v s).rdata = s.rdata := by
  rw [writeReg_eq]
@[simp] theorem writeReg_draws (r : Reg) (v : Word) (s : State) : (writeReg r v s).draws = s.draws := by
  rw [writeReg_eq]

/-- TSIN is written only as itself (R31). -/
theorem writeReg_tsin_of_ne {r : Reg} (v : Word) (s : State) (h : r ≠ .tsin) :
    (writeReg r v s).tsin = s.tsin := by
  cases r with
  | tsin => exact absurd rfl h
  | _ => rfl

/-! ### The block's part of a state -/

/-- The registers and `pending` are the same in both states: what else may differ is the HOST's and the
schedule's (LOG 1, LOG 4, LOG 5). -/
structure SameBlock (s t : State) : Prop where
  status : t.status = s.status
  qin : t.qin = s.qin
  tsin : t.tsin = s.tsin
  frameIn : t.frameIn = s.frameIn
  qout : t.qout = s.qout
  tsout : t.tsout = s.tsout
  frameOut : t.frameOut = s.frameOut
  pending : t.pending = s.pending

theorem SameBlock.trans {s t u : State} (h : SameBlock s t) (h' : SameBlock t u) : SameBlock s u :=
  ⟨h'.status.trans h.status, h'.qin.trans h.qin, h'.tsin.trans h.tsin, h'.frameIn.trans h.frameIn,
    h'.qout.trans h.qout, h'.tsout.trans h.tsout, h'.frameOut.trans h.frameOut, h'.pending.trans h.pending⟩

theorem advanceTurn_sameBlock (s : State) : SameBlock s (advanceTurn s) :=
  ⟨rfl, rfl, rfl, rfl, rfl, rfl, rfl, rfl⟩

theorem advanceHost_sameBlock (s : State) : SameBlock s (advanceHost s) :=
  ⟨rfl, rfl, rfl, rfl, rfl, rfl, rfl, rfl⟩

/-- A HOST read changes no register of the block (20_memory.md R70). -/
theorem hostRead_sameBlock (r : Reg) (s : State) : SameBlock s (hostRead r s) := by
  rw [hostRead_eq]
  exact ⟨rfl, rfl, rfl, rfl, rfl, rfl, rfl, rfl⟩

/-- A POLL's read changes no register of the block, whether it goes on or reads again (30_encoding.md R93). -/
theorem pollOnce_sameBlock (r : Reg) (mask value : Word) (s : State) : SameBlock s (pollOnce r mask value s) := by
  simp only [pollOnce]
  split
  · exact (hostRead_sameBlock r s).trans (advanceHost_sameBlock _)
  · exact (hostRead_sameBlock r s).trans (advanceTurn_sameBlock _)

/-- What a register reads as is the block's. -/
theorem SameBlock.readReg_eq {s t : State} (h : SameBlock s t) (r : Reg) : readReg r t = readReg r s := by
  cases r <;> simp only [readReg, h.status, h.qin, h.tsin, h.frameIn, h.qout, h.tsout, h.frameOut]

/-- Settles O53: the index is not CMD's, so the step is the write itself. -/
theorem hostWriteStoresTheWritableBits : Obligations.HostWriteStoresTheWritableBits := by
  intro s n v rest hpos hlt hbase hturn hprog
  have hstep := step_host_write hturn hprog (busReg_at s.params n hlt hbase) (regOfIndex_ne_cmd hpos)
  refine ⟨_, hstep, ?_, fun m _ hm => ?_, ?_⟩
  · rw [(advanceHost_sameBlock _).readReg_eq, readReg_writeReg_same, storedWord_regOfIndex]
  · rw [(advanceHost_sameBlock _).readReg_eq, readReg_writeReg_index_ne v s hm]
  · simp [hprog]

/-! ### What a step does to the block (43_commands.md R243) -/

/-- The OP code of a command word that issues the operation (30_encoding.md R81). -/
def Op.code : Op → BitVec 2
  | .encode => 1
  | .decode => 2

/-- The operations that are issued have the OP codes 1 and 2 (30_encoding.md R81). -/
theorem Op.code_cases (op : Op) : op.code = 1 ∨ op.code = 2 := by cases op <;> simp [Op.code]

/-- The HOST acts, and its next operation is a write of `v` that reaches register `r` (20_memory.md R67). -/
def HostWrites (s : State) (r : Reg) (v : Word) : Prop :=
  currentTurn s = .host ∧ ∃ (addr : Nat) (rest : List HostOp),
    s.prog = .write addr 4 v :: rest ∧ busReg s.params addr 4 = .ok r

/-- The events of 43_commands.md R243, each by what it does to the registers and to `pending`. -/
inductive BlockEvent (s t : State) : Prop where
  /-- A HOST read, a POLL, a NOP or an idle turn. -/
  | quiet : SameBlock s t → BlockEvent s t
  | reset : currentTurn s = .reset → SameBlock (resetBlock s) t → BlockEvent s t
  | stored (r : Reg) (v : Word) : HostWrites s r v → SameBlock (writeReg r v s) t → BlockEvent s t
  | accepted (op : Op) (w : Word) : HostWrites s .cmd w → w.extractLsb' 0 2 = op.code →
      s.status.busy = false → SameBlock (accept op s) t → BlockEvent s t
  /-- CmdErr: a reserved OP, or a command dropped while busy (R238, R240). -/
  | cmdErr (w : Word) : HostWrites s .cmd w →
      (w.extractLsb' 0 2 = 3 ∨ (s.status.busy = true ∧ (w.extractLsb' 0 2 = 1 ∨ w.extractLsb' 0 2 = 2))) →
      SameBlock (raiseCmdErr s) t → BlockEvent s t
  | encoded (q : Triplet (Quat Word)) (ts : TimeStamp) : currentTurn s = .engine →
      s.pending = some (.encode q ts) → SameBlock (complete (encodeResult q ts s)) t → BlockEvent s t
  | decoded (fr : Frame) (m : Mode) (q : Triplet (Quat Int)) (ts : TimeStamp) : currentTurn s = .engine →
      s.pending = some (.decode fr) → fieldRead fr 0 2 ≠ 3 → m ≠ .unknown →
      SameBlock (complete (decodeResult m q ts s)) t → BlockEvent s t
  | failed (fr : Frame) : currentTurn s = .engine → s.pending = some (.decode fr) → fieldRead fr 0 2 = 3 →
      SameBlock (complete (raiseDecodeFail s)) t → BlockEvent s t

/-- Only code 3 is no mode of the frame format (30_encoding.md R83). -/
theorem ofCode_eq_unknown_iff (b : BitVec 2) : Mode.ofCode b = .unknown ↔ b = 3 := by
  revert b
  decide

/-- The code of a code's mode (30_encoding.md R83). -/
@[simp] theorem code_ofCode (b : BitVec 2) : (Mode.ofCode b).code = b := by
  revert b
  decide

/-- An issued command is accepted, or dropped with CmdErr (43_commands.md R234, R240). -/
theorem BlockEvent.of_issue {s : State} {w : Word} {op : Op} (hw : HostWrites s .cmd w)
    (hop : w.extractLsb' 0 2 = op.code) : BlockEvent s (advanceHost (issue op s)) := by
  obtain ⟨hbusy, h⟩ | ⟨hidle, h⟩ := issue_cases op s
  · have hcode : w.extractLsb' 0 2 = 1 ∨ w.extractLsb' 0 2 = 2 := hop ▸ op.code_cases
    exact .cmdErr w hw (.inr ⟨hbusy, hcode⟩) (h ▸ advanceHost_sameBlock _)
  · exact .accepted op w hw hop hidle (h ▸ advanceHost_sameBlock _)

/-- A HOST write to CMD, by its OP (30_encoding.md R81). -/
theorem BlockEvent.of_command {s t : State} {w : Word} (hw : HostWrites s .cmd w)
    (h : exec (decodeCmd w) s = .next t) : BlockEvent s t := by
  obtain ⟨_, e⟩ | ⟨hop, e⟩ | ⟨hop, e⟩ | ⟨hop, e⟩ := exec_decodeCmd_cases w s <;> cases e.symm.trans h
  · exact .quiet (advanceHost_sameBlock s)
  · exact .of_issue hw hop
  · exact .of_issue hw hop
  · exact .cmdErr w hw (.inl hop) (advanceHost_sameBlock _)

/-- A HOST turn is quiet, stores an operand, or writes CMD. -/
theorem HostTurn.blockEvent {s t : State} (hturn : currentTurn s = .host) (h : HostTurn s t) : BlockEvent s t := by
  cases h with
  | idle => exact .quiet (advanceTurn_sameBlock s)
  | read _ _ _ r => exact .quiet ((hostRead_sameBlock r s).trans (advanceHost_sameBlock _))
  | write addr _ v rest r hprog hbus =>
    obtain ⟨rfl, _⟩ := (busReg_ok_iff _ _ _ _).mp hbus
    exact .stored r v ⟨hturn, addr, rest, hprog, hbus⟩ (advanceHost_sameBlock _)
  | command addr _ w rest _ hprog hbus hexec =>
    obtain ⟨rfl, _⟩ := (busReg_ok_iff _ _ _ _).mp hbus
    exact .of_command ⟨hturn, addr, rest, hprog, hbus⟩ hexec
  | poll _ mask value _ r => exact .quiet (pollOnce_sameBlock r mask value s)

/-- An ENGINE turn is idle, or completes what is pending. -/
theorem EngineTurn.blockEvent {s t : State} (hturn : currentTurn s = .engine) (h : EngineTurn s t) :
    BlockEvent s t := by
  cases h with
  | idle => exact .quiet (advanceTurn_sameBlock s)
  | encode q ts hpending => exact .encoded q ts hturn hpending (advanceTurn_sameBlock _)
  | decode fr _ hpending hexec =>
    obtain ⟨m, q, ts, hm, hcode, e⟩ | ⟨hcode, e⟩ := exec_decodeFrame_cases s.params.layout fr s
    · cases e.symm.trans hexec
      have hne : fieldRead fr 0 2 ≠ 3 := fun h3 => hm (hcode.trans ((ofCode_eq_unknown_iff _).mpr h3))
      exact .decoded fr m q ts hturn hpending hne hm (advanceTurn_sameBlock _)
    · cases e.symm.trans hexec
      exact .failed fr hturn hpending ((ofCode_eq_unknown_iff _).mp hcode) (advanceTurn_sameBlock _)

/-- Every step that answers a next state is one of the events. -/
theorem blockEvent_of_step {s t : State} (h : step s = .next t) : BlockEvent s t := by
  obtain ⟨hturn, rfl⟩ | ⟨hturn, hengine⟩ | ⟨hturn, hhost⟩ := step_cases h
  · exact .reset hturn (advanceTurn_sameBlock _)
  · exact hengine.blockEvent hturn
  · exact hhost.blockEvent hturn

/-! ### The control invariant (10_state.md R25, R29, R40) -/

/-- The invariant is about the block alone. -/
theorem SameBlock.controlOk {s t : State} (h : SameBlock s t) (hs : controlOk s) : controlOk t := by
  unfold Machine.controlOk
  rwa [h.status, h.pending, h.qout, h.tsout, h.frameOut]

/-- Reset establishes the invariant from any state (70_reset_and_hazards.md R290). -/
theorem controlOk_resetBlock (s : State) : controlOk (resetBlock s) := by
  simp [controlOk, resetStatus, fieldRead, Mode.code]

/-- A write to an operand register touches nothing the invariant is about. -/
theorem controlOk_writeReg {s : State} (r : Reg) (v : Word) (hs : controlOk s) : controlOk (writeReg r v s) := by
  simpa only [controlOk, writeReg_status, writeReg_pending, writeReg_qout, writeReg_tsout, writeReg_frameOut]
    using hs

/-- An acceptance sets BUSY with `pending` and clears DONE and DEC_FAIL (43_commands.md R234). -/
theorem controlOk_accept {s : State} (op : Op) (hs : controlOk s) : controlOk (accept op s) := by
  obtain ⟨_, _, _, _, hframe⟩ := hs
  simpa [controlOk] using hframe

/-- CmdErr changes no flag the invariant is about (60_exceptions.md R262). -/
theorem controlOk_raiseCmdErr {s : State} (hs : controlOk s) : controlOk (raiseCmdErr s) := by
  simpa [controlOk] using hs

/-- With a command pending the invariant has BUSY 1, so DONE and DEC_FAIL are 0. -/
theorem controlOk.flags_of_pending {s : State} {p : Pending} (hs : controlOk s) (hp : s.pending = some p) :
    s.status.busy = true ∧ s.status.done = false ∧ s.status.decFail = false := by
  obtain ⟨hbusy, hexclusive, hfail, _, _⟩ := hs
  have hb : s.status.busy = true := by simp [hbusy, hp]
  have hd : s.status.done = false := by simpa [hb] using hexclusive
  refine ⟨hb, hd, ?_⟩
  simpa [hd] using hfail

/-- The mode selector of the frame an ENCODE leaves is a mode's code, never 3 (43_commands.md R230, R235). -/
theorem encFrame_selector_ne_three (p : Config.Params) (q : Triplet (Quat Int)) (ts : TimeStamp) :
    fieldRead (encFrame p q ts) 0 2 ≠ Mode.unknown.code := by
  rw [encFrame_selector]
  have hm := selectMode_ne_unknown p q
  cases h : selectMode p q with
  | unknown => exact absurd h hm
  | individual | firstLastDeltaMid | lastDeltaFirstDeltaMid => decide

/-- The completion of an ENCODE: DEC_FAIL is still the 0 of the acceptance, and the new MODE is not 3
(43_commands.md R235, R239). -/
theorem controlOk_encode {s : State} {q : Triplet (Quat Word)} {ts : TimeStamp} (hs : controlOk s)
    (hp : s.pending = some (.encode q ts)) : controlOk (complete (encodeResult q ts s)) := by
  obtain ⟨_, _, hfail⟩ := hs.flags_of_pending hp
  have hframe := encFrame_selector_ne_three s.params (q.map quatOfWords) ts
  have hmode : Mode.ofCode (fieldRead (encFrame s.params (q.map quatOfWords) ts) 0 2) ≠ .unknown :=
    fun h => hframe ((ofCode_eq_unknown_iff _).mp h)
  simp [controlOk, hfail, hmode, hframe]

/-- The completion of a DECODE that does not fail clears DEC_FAIL and sets a mode that is not 3
(43_commands.md R236, R239). -/
theorem controlOk_decode {s : State} {m : Mode} (q : Triplet (Quat Int)) (ts : TimeStamp) (hs : controlOk s)
    (hm : m ≠ .unknown) : controlOk (complete (decodeResult m q ts s)) := by
  obtain ⟨_, _, _, _, hframe⟩ := hs
  simpa [controlOk, hm] using hframe

/-- The completion of a DECODE that fails sets DEC_FAIL and MODE 3 and clears QOUT and TSOUT
(43_commands.md R236, R239; 60_exceptions.md R261). -/
theorem controlOk_fail {s : State} (hs : controlOk s) : controlOk (complete (raiseDecodeFail s)) := by
  obtain ⟨_, _, _, _, hframe⟩ := hs
  simpa [controlOk] using hframe

/-- Settles O46: each event of a step keeps the invariant. -/
theorem controlInvariantIsKept : Obligations.ControlInvariantIsKept := by
  intro s t hs hstep
  cases blockEvent_of_step hstep with
  | quiet h => exact h.controlOk hs
  | reset _ h => exact h.controlOk (controlOk_resetBlock s)
  | stored r v _ h => exact h.controlOk (controlOk_writeReg r v hs)
  | accepted op _ _ _ _ h => exact h.controlOk (controlOk_accept op hs)
  | cmdErr _ _ _ h => exact h.controlOk (controlOk_raiseCmdErr hs)
  | encoded _ _ _ hp h => exact h.controlOk (controlOk_encode hs hp)
  | decoded _ _ q ts _ _ _ hm h => exact h.controlOk (controlOk_decode q ts hs hm)
  | failed _ _ _ _ h => exact h.controlOk (controlOk_fail hs)

/-! ### When a register changes (10_state.md R25 to R35) -/

/-- Settles O49: BUSY and `pending` are set together by an acceptance and cleared together by a completion or by
reset; no other event touches either. -/
theorem busyChangesOnlyAsStated : Obligations.BusyChangesOnlyAsStated := by
  intro s t hstep
  cases blockEvent_of_step hstep with
  | quiet h => simp +contextual [h.status, h.pending]
  | stored _ _ _ h => simp +contextual [h.status, h.pending]
  | cmdErr _ _ _ h => simp +contextual [h.status, h.pending]
  | reset hturn h =>
    have hbusy : t.status.busy = false := by rw [h.status]; rfl
    have hpending : t.pending = none := h.pending
    refine ⟨by simp [hbusy], fun _ _ => .inl hturn, fun _ => .inl ⟨hpending, hbusy⟩, fun hs hchange => ?_⟩
    obtain ⟨p, hp⟩ : ∃ p, s.pending = some p := Option.ne_none_iff_exists'.mp (hpending ▸ hchange.symm)
    exact .inl ⟨by simp [hp], hpending, (hs.flags_of_pending hp).1, hbusy⟩
  | accepted op w hw hop hidle h =>
    obtain ⟨hturn, addr, rest, hprog, hbus⟩ := hw
    have hcode : w.extractLsb' 0 2 = 1 ∨ w.extractLsb' 0 2 = 2 := hop ▸ op.code_cases
    have hbusy : t.status.busy = true := by rw [h.status]; rfl
    have hpending : t.pending ≠ none := by simp [h.pending]
    refine ⟨fun _ _ => ⟨hturn, addr, w, rest, hprog, hbus, hcode⟩, by simp [hbusy],
      fun _ => .inr ⟨hpending, hidle, hbusy⟩, fun hs _ => .inr ⟨?_, hpending, hidle, hbusy⟩⟩
    simpa [hidle] using hs.1
  | encoded q ts hturn hp h => simp +contextual [h.status, h.pending, hturn, hp]
  | decoded fr m q ts hturn hp _ _ h => simp +contextual [h.status, h.pending, hturn, hp]
  | failed fr hturn hp _ h => simp +contextual [h.status, h.pending, hturn, hp]

/-- Settles O50: acceptance clears DONE, DEC_FAIL and CMDERR; CmdErr sets CMDERR; a completion sets DONE, MODE
and, for a DECODE, DEC_FAIL; reset clears all. -/
theorem modeAndCmdErrChangeOnlyAsStated : Obligations.ModeAndCmdErrChangeOnlyAsStated := by
  intro s t hstep
  cases blockEvent_of_step hstep with
  | quiet h => simp +contextual [h.status]
  | stored _ _ _ h => simp +contextual [h.status]
  | cmdErr w hw hop h =>
    obtain ⟨hturn, addr, rest, hprog, hbus⟩ := hw
    refine ⟨by simp [h.status], fun _ _ => ⟨hturn, addr, w, rest, hprog, hbus, hop⟩, ?_⟩
    simp +contextual [h.status]
  | reset hturn h => simp [h.status, hturn, resetStatus]
  | accepted op w hw hop hidle h => simp [h.status, hw.1, hidle]
  | encoded q ts hturn hp h => simp +contextual [h.status, h.pending, hturn, hp]
  | decoded fr m q ts hturn hp hsel _ h =>
    have hbroken (hfail : s.status.decFail = true) : ¬ controlOk s := fun hs => by
      obtain ⟨_, _, hclear⟩ := hs.flags_of_pending hp
      simp [hclear] at hfail
    refine ⟨?_, ?_, ?_, ?_, ?_, ?_, fun _ hfail => .inr (.inr ⟨hbroken hfail, hturn, fr, hp, hsel⟩)⟩
    all_goals simp +contextual [h.status, h.pending, hturn, hp]
  | failed fr hturn hp hsel h => simp +contextual [h.status, h.pending, hturn, hp, hsel]

/-- Settles O51: only reset and the completion of a DECODE write QOUT and TSOUT, only reset and that of an ENCODE
write FRAME_OUT, and only reset and a HOST write to the very register write an operand register. -/
theorem resultRegistersChangeOnlyByTheirCompletion : Obligations.ResultRegistersChangeOnlyByTheirCompletion := by
  intro s t hstep
  cases blockEvent_of_step hstep with
  | quiet h => simp [h.qin, h.tsin, h.frameIn, h.qout, h.tsout, h.frameOut]
  | accepted _ _ _ _ _ h => simp [h.qin, h.tsin, h.frameIn, h.qout, h.tsout, h.frameOut]
  | cmdErr _ _ _ h => simp [h.qin, h.tsin, h.frameIn, h.qout, h.tsout, h.frameOut]
  | reset hturn _ => simp [hturn]
  | encoded q ts hturn hp h => simp [h.qin, h.tsin, h.frameIn, h.qout, h.tsout, hturn, hp]
  | decoded fr _ _ _ hturn hp _ _ h => simp [h.qin, h.tsin, h.frameIn, h.frameOut, hturn, hp]
  | failed fr hturn hp _ h => simp [h.qin, h.tsin, h.frameIn, h.frameOut, hturn, hp]
  | stored r v hw h =>
    obtain ⟨hturn, addr, rest, hprog, hbus⟩ := hw
    have hwrites (r' : Reg) (hr : r' = r) : currentTurn s = .host ∧
        ∃ (addr : Nat) (v : Word) (rest : List HostOp),
          s.prog = .write addr 4 v :: rest ∧ busReg s.params addr 4 = .ok r' :=
      ⟨hturn, addr, v, rest, hprog, hr ▸ hbus⟩
    have hchange {r' : Reg} (hne : readReg r' t ≠ readReg r' s) : r' = r := by
      by_contra hr
      exact hne (by rw [h.readReg_eq, readReg_writeReg_ne v s hr])
    refine ⟨by simp [h.qout, h.tsout], by simp [h.frameOut], fun k hk => .inr ?_, fun hts => .inr ?_,
      fun j hj => .inr ?_⟩
    · exact hwrites (.qin k) (hchange hk)
    · refine hwrites .tsin ?_
      by_contra hr
      exact hts (by rw [h.tsin, writeReg_tsin_of_ne v s (Ne.symm hr)])
    · exact hwrites (.frameIn j) (hchange hj)

/-! ### The operand snapshot (10_state.md R41) -/

/-- What the completion of a DECODE writes depends on the frame and the parameters alone (43_commands.md
R236). -/
theorem exec_decodeFrame_result (lay : Config.Layout) (fr : Frame) (p : Config.Params) :
    (∃ m q ts, ∀ s : State, s.params = p → exec (decodeFrame lay fr) s = .next (completeDecode m q ts s)) ∨
    ∀ s : State, exec (decodeFrame lay fr) s = .next (completeFail s) := by
  unfold decodeFrame
  cases Mode.ofCode (fieldRead fr 0 2) with
  | individual => exact .inl ⟨_, unpackInd p _, _, fun s hs => by subst hs; rfl⟩
  | firstLastDeltaMid => exact .inl ⟨_, unpackFL p _, _, fun s hs => by subst hs; rfl⟩
  | lastDeltaFirstDeltaMid => exact .inl ⟨_, unpackLD p _, _, fun s hs => by subst hs; rfl⟩
  | unknown => exact .inr fun s => rfl

/-- A command word with the OP code of an operation issues it (30_encoding.md R81, 43_commands.md R234). -/
theorem exec_decodeCmd_issue {w : Word} {op : Op} (s : State) (h : w.extractLsb' 0 2 = op.code) :
    exec (decodeCmd w) s = .next (advanceHost (issue op s)) := by
  cases op with
  | encode => simp [decodeCmd, h, Op.code, exec, execEncode]
  | decode => simp [decodeCmd, h, Op.code, exec, execDecode]

/-- An ENGINE turn with a DECODE pending runs the frame's instruction (43_commands.md R239). -/
theorem step_engine_decode {s : State} {fr : Frame} (ht : currentTurn s = .engine)
    (hp : s.pending = some (.decode fr)) : step s = exec (decodeFrame s.params.layout fr) s := by
  simp only [step, fetch, ht, engineTurn, hp]

/-- The state the ENGINE acts on after an accepted command and a HOST write to a register other than CMD. -/
def issuedThenWritten (op : Op) (r : Reg) (v : Word) (s : State) : State :=
  advanceHost (writeReg r v (advanceHost (accept op s)))

section
variable (op : Op) (r : Reg) (v : Word) (s : State)

@[simp] theorem issuedThenWritten_params : (issuedThenWritten op r v s).params = s.params := by
  simp [issuedThenWritten]
@[simp] theorem issuedThenWritten_status : (issuedThenWritten op r v s).status = acceptStatus s.status := by
  simp [issuedThenWritten]
@[simp] theorem issuedThenWritten_pending : (issuedThenWritten op r v s).pending = some (snapshot op s) := by
  simp [issuedThenWritten]
@[simp] theorem issuedThenWritten_qout : (issuedThenWritten op r v s).qout = s.qout := by
  simp [issuedThenWritten]
@[simp] theorem issuedThenWritten_tsout : (issuedThenWritten op r v s).tsout = s.tsout := by
  simp [issuedThenWritten]
@[simp] theorem issuedThenWritten_frameOut : (issuedThenWritten op r v s).frameOut = s.frameOut := by
  simp [issuedThenWritten]
@[simp] theorem issuedThenWritten_turns : (issuedThenWritten op r v s).turns = s.turns.tail.tail := by
  simp [issuedThenWritten]

end

/-- A command written while idle and a HOST write after it run to that state, with the ENGINE's turn next. -/
theorem run_issue_write {s : State} {op : Op} {w v : Word} {n : Nat} {prog : List HostOp} {turns : List Turn}
    (k : Nat) (hbase : s.params.base % 4 = 0) (hidle : s.status.busy = false) (hpos : 0 < n) (hlt : n < 64)
    (hprog : s.prog = .write s.params.base 4 w :: .write (s.params.base + 4 * n) 4 v :: prog)
    (hturns : s.turns = .host :: .host :: .engine :: turns) (hop : w.extractLsb' 0 2 = op.code) :
    Sys2Proof.core.run (k + 1 + 1) s = Sys2Proof.core.run k (issuedThenWritten op (regOfIndex n) v s)
    ∧ currentTurn (issuedThenWritten op (regOfIndex n) v s) = .engine := by
  have hissue : step s = .next (advanceHost (accept op s)) := by
    have haccept : issue op s = accept op s := by simp [issue, hidle]
    rw [step_host_command (by simp [currentTurn, hturns]) hprog (busReg_at s.params 0 (by omega) hbase),
      exec_decodeCmd_issue s hop, haccept]
  have hwrite : step (advanceHost (accept op s)) = .next (issuedThenWritten op (regOfIndex n) v s) :=
    step_host_write (by simp [currentTurn, hturns]) (congrArg List.tail hprog)
      (busReg_at s.params n hlt hbase) (regOfIndex_ne_cmd hpos)
  refine ⟨by rw [run_succ_of_step _ hissue, run_succ_of_step _ hwrite], ?_⟩
  simp [currentTurn, hturns]

/-- What every completion does beside its result writes (43_commands.md R239): it ends the command and leaves CMDERR
and the operand registers alone. -/
structure Completed (s t : State) : Prop where
  busy : t.status.busy = false
  done : t.status.done = true
  cmdErr : t.status.cmdErr = s.status.cmdErr
  pending : t.pending = none
  qin : t.qin = s.qin
  tsin : t.tsin = s.tsin
  frameIn : t.frameIn = s.frameIn

theorem completeEncode_completed (q : Triplet (Quat Word)) (ts : TimeStamp) (s : State) :
    Completed s (completeEncode q ts s) := ⟨rfl, rfl, rfl, rfl, rfl, rfl, rfl⟩

theorem completeDecode_completed (m : Mode) (q : Triplet (Quat Int)) (ts : TimeStamp) (s : State) :
    Completed s (completeDecode m q ts s) := ⟨rfl, rfl, rfl, rfl, rfl, rfl, rfl⟩

theorem completeFail_completed (s : State) : Completed s (completeFail s) := ⟨rfl, rfl, rfl, rfl, rfl, rfl, rfl⟩

/-- A completion leaves every operand register as it reads. -/
theorem Completed.readReg_operand {s t : State} (h : Completed s t) {n : Nat}
    (hn : (2 ≤ n ∧ n ≤ 14) ∨ (16 ≤ n ∧ n ≤ 20)) : readReg (regOfIndex n) t = readReg (regOfIndex n) s := by
  obtain hqin | htsin | hframeIn : (2 ≤ n ∧ n ≤ 13) ∨ n = 14 ∨ (16 ≤ n ∧ n ≤ 20) := by omega
  · obtain ⟨k, hk⟩ := regOfIndex_eq_qin hqin.1 hqin.2
    simp only [hk, readReg, h.qin]
  · subst htsin
    exact congrArg tsWord h.tsin
  · obtain ⟨j, hj⟩ := regOfIndex_eq_frameIn hframeIn.1 hframeIn.2
    simp only [hj, readReg, h.frameIn]

/-- After the completion the command is over without CMDERR, and the operand register written reads the writable
bits of the value. -/
theorem Completed.of_issuedThenWritten {op : Op} {n : Nat} {v : Word} {s t : State}
    (hn : (2 ≤ n ∧ n ≤ 14) ∨ (16 ≤ n ∧ n ≤ 20)) (h : Completed (issuedThenWritten op (regOfIndex n) v s) t) :
    t.status.busy = false ∧ t.status.done = true ∧ t.status.cmdErr = false ∧ t.pending = none
    ∧ readReg (regOfIndex n) t =
        if n = 14 then v &&& 0x0001FFFF#32 else if n = 20 then v &&& 0x0000FFFF#32 else v := by
  refine ⟨h.busy, h.done, by simp [h.cmdErr], h.pending, ?_⟩
  rw [h.readReg_operand hn, issuedThenWritten, (advanceHost_sameBlock _).readReg_eq, readReg_writeReg_same,
    storedWord_regOfIndex]
  grind

/-- Settles O44: the command runs on its snapshot, which the write after it does not reach. -/
theorem decodeIgnoresLaterOperandWrites : Obligations.DecodeIgnoresLaterOperandWrites := by
  intro s w v n prog turns hbase hidle hn hprog hturns written
  refine ⟨fun hop => ?_, fun hop => ?_⟩
  · obtain ⟨hrun, hengine⟩ :=
      run_issue_write (op := .decode) 1 hbase hidle (by omega) (by omega) hprog hturns hop
    have hstep := step_engine_decode hengine (issuedThenWritten_pending .decode (regOfIndex n) v s)
    rw [issuedThenWritten_params] at hstep
    obtain ⟨m, q, ts, hexec⟩ | hexec := exec_decodeFrame_result s.params.layout s.frameIn s.params
    · rw [hexec _ (issuedThenWritten_params ..)] at hstep
      exact ⟨_, _, hrun.trans (run_succ_of_step 0 hstep), hexec s rfl, rfl, rfl, issuedThenWritten_frameOut ..,
        rfl, rfl, (completeDecode_completed m q ts _).of_issuedThenWritten hn⟩
    · rw [hexec] at hstep
      exact ⟨_, _, hrun.trans (run_succ_of_step 0 hstep), hexec s, rfl, rfl, issuedThenWritten_frameOut ..,
        rfl, rfl, (completeFail_completed _).of_issuedThenWritten hn⟩
  · obtain ⟨hrun, hengine⟩ :=
      run_issue_write (op := .encode) 1 hbase hidle (by omega) (by omega) hprog hturns hop
    have hstep := step_engine_encode hengine (issuedThenWritten_pending .encode (regOfIndex n) v s)
    have hframe : (completeEncode s.qin s.tsin (issuedThenWritten .encode (regOfIndex n) v s)).frameOut =
        encFrame s.params (s.qin.map quatOfWords) s.tsin := by simp [completeEncode]
    exact ⟨_, hrun.trans (run_succ_of_step 0 hstep), hframe, issuedThenWritten_qout .., issuedThenWritten_tsout ..,
      code_ofCode _, by simp [completeEncode], (completeEncode_completed ..).of_issuedThenWritten hn⟩

end Sys2Proof.Machine
end

section
/-! PROOFS. The statements of 20_memory.md: FieldRead as a sum (O9), the interface contract of the window (O55),
and the byte addresses of a frame (O60). -/

namespace Sys2Proof

/-! ### FieldRead as a sum (20_memory.md R60, R61) -/

/-- The low W bits of a number are the sum of its bits at their places. -/
theorem mod_two_pow_eq_sum_bits (n W : Nat) :
    n % 2 ^ W = ∑ j ∈ Finset.range W, (if n.testBit j then 2 ^ j else 0) := by
  induction W with
  | zero => simp [Nat.mod_one]
  | succ W ih =>
    rw [Nat.mod_pow_succ, Finset.sum_range_succ, ih, Nat.testBit_eq_decide_div_mod_eq]
    obtain h | h := Nat.mod_two_eq_zero_or_one (n / 2 ^ W) <;> simp [h]

/-- Frame bit k is bit k mod 8 of byte k div 8 (R60). -/
theorem frameByte_bit (fr : Frame) (k : Nat) : (frameByte fr (k / 8)).getLsbD (k % 8) = fr.getLsbD k := by
  have hin : k % 8 < 8 := Nat.mod_lt k (by decide)
  rw [frameByte, BitVec.getLsbD_extractLsb', Nat.div_add_mod, decide_eq_true hin, Bool.true_and]

/-- Settles O9: the field's bits are the frame's from `off` on. -/
theorem fieldReadIsTheSumOfItsBits : Obligations.FieldReadIsTheSumOfItsBits := by
  intro fr off W _ _ _
  rw [← Nat.mod_eq_of_lt (fieldRead fr off W).isLt, mod_two_pow_eq_sum_bits]
  refine Finset.sum_congr rfl fun j hj => ?_
  rw [BitVec.testBit_toNat, fieldRead_getLsbD, frameByte_bit, decide_eq_true (Finset.mem_range.mp hj), Bool.true_and]

end Sys2Proof

namespace Sys2Proof.Machine

/-! ### The interface contract (20_memory.md R67) -/

/-- The address a HOST operation accesses (30_encoding.md R93). -/
def opAddr : HostOp → Nat
  | .read addr _ => addr
  | .write addr _ _ => addr
  | .poll addr _ _ => addr

/-- The width in bytes of a HOST operation's access; a POLL reads whole registers (30_encoding.md R93). -/
def opBytes : HostOp → Nat
  | .read _ bytes => bytes
  | .write _ bytes _ => bytes
  | .poll _ _ _ => 4

/-- An operation keeps to the contract when its access reaches a register. -/
theorem inContract_eq (p : Config.Params) (op : HostOp) :
    inContract p op = (busReg p (opAddr op) (opBytes op)).toBool := by
  cases op <;> rfl

/-- With BASE a multiple of 4, an access is in error exactly outside the contract (R67). -/
theorem busReg_toBool_eq_false_iff {p : Config.Params} (addr bytes : Nat) (hbase : p.base % 4 = 0) :
    (busReg p addr bytes).toBool = false ↔
      bytes ≠ 4 ∨ addr % 4 ≠ 0 ∨ addr < p.base ∨ p.base + 0xFF < addr := by
  have hok := busReg_ok_iff p addr bytes
  cases h : busReg p addr bytes with
  | ok r =>
    obtain ⟨_, _, _, _, _⟩ := (hok r).mp h
    simp only [Except.toBool, Bool.true_eq_false, false_iff]
    omega
  | error r =>
    have hno : ¬ (bytes = 4 ∧ p.base ≤ addr ∧ addr ≤ p.base + 0xFF ∧ addr % 4 = 0 ∧ (addr - p.base) % 4 = 0) :=
      fun ⟨h4, hlo, hhi, ha, ho⟩ => by simpa [h] using (hok _).mpr ⟨h4, hlo, hhi, ha, ho, rfl⟩
    simp only [Except.toBool, true_iff]
    omega

/-- Every instruction has a meaning in every state. -/
theorem exec_next (i : Instr) (s : State) : ∃ t, exec i s = .next t := by
  cases i <;> exact ⟨_, rfl⟩

/-- Reset and the ENGINE make no bus access. -/
theorem step_next_of_not_host {s : State} (ht : currentTurn s ≠ .host) : ∃ t, step s = .next t := by
  cases hturn : currentTurn s with
  | host => exact absurd hturn ht
  | reset => exact ⟨_, step_reset hturn⟩
  | engine =>
    cases hp : s.pending with
    | none => exact ⟨_, step_engine_none hturn hp⟩
    | some p =>
      cases p with
      | encode q ts => exact ⟨_, step_engine_encode hturn hp⟩
      | decode fr => exact step_engine_decode hturn hp ▸ exec_next _ s

/-- A HOST operation inside the contract is carried out. -/
theorem step_next_of_inContract {s : State} {op : HostOp} {rest : List HostOp} (ht : currentTurn s = .host)
    (hp : s.prog = op :: rest) (hin : inContract s.params op = true) : ∃ t, step s = .next t := by
  rw [inContract_eq] at hin
  cases hb : busReg s.params (opAddr op) (opBytes op) with
  | error r => simp [hb, Except.toBool] at hin
  | ok r =>
    cases op with
    | read addr bytes => exact ⟨_, step_host_read ht hp hb⟩
    | poll addr mask value => exact ⟨_, step_host_poll ht hp hb⟩
    | write addr bytes v =>
      by_cases hr : r = .cmd
      · exact step_host_command ht hp (hr ▸ hb) ▸ exec_next _ s
      · exact ⟨_, step_host_write ht hp hb hr⟩

/-- A HOST operation outside the contract is refused (LOG 10). -/
theorem step_refused_of_not_inContract {s : State} {op : HostOp} {rest : List HostOp}
    (ht : currentTurn s = .host) (hp : s.prog = op :: rest) (hout : inContract s.params op = false) :
    ∃ r, step s = .refused r := by
  rw [inContract_eq] at hout
  cases hb : busReg s.params (opAddr op) (opBytes op) with
  | ok r => simp [hb, Except.toBool] at hout
  | error r =>
    refine ⟨r, ?_⟩
    cases op <;> simp only [opAddr, opBytes] at hb <;> simp only [step, fetch, ht, hostTurn, hp, hb]

/-- A step is refused exactly when the HOST's next operation is outside the contract. -/
theorem step_refused_iff (s : State) :
    (∃ r, step s = .refused r) ↔
      currentTurn s = .host ∧ ∃ op rest, s.prog = op :: rest ∧ inContract s.params op = false := by
  refine ⟨fun ⟨r, hr⟩ => ?_, fun ⟨ht, op, rest, hp, hout⟩ => step_refused_of_not_inContract ht hp hout⟩
  have hstuck : ¬ ∃ t, step s = .next t := by simp [hr]
  have ht : currentTurn s = .host := by_contra fun h => hstuck (step_next_of_not_host h)
  cases hp : s.prog with
  | nil => exact absurd ⟨_, step_host_idle ht hp⟩ hstuck
  | cons op rest =>
    exact ⟨ht, op, rest, rfl, Bool.eq_false_iff.mpr fun h => hstuck (step_next_of_inContract ht hp h)⟩

/-- A HOST program that begins with an access of `bytes` bytes at `addr` begins with such a read, write or
POLL. -/
theorem next_access_iff (prog : List HostOp) (addr bytes : Nat) :
    (∃ op rest, prog = op :: rest ∧ opAddr op = addr ∧ opBytes op = bytes) ↔
      (∃ rest, prog = .read addr bytes :: rest)
      ∨ (∃ v rest, prog = .write addr bytes v :: rest)
      ∨ (∃ mask value rest, prog = .poll addr mask value :: rest ∧ bytes = 4) := by
  constructor
  · rintro ⟨op, rest, hp, rfl, rfl⟩
    cases op with
    | read addr bytes => exact .inl ⟨rest, hp⟩
    | write addr bytes v => exact .inr (.inl ⟨v, rest, hp⟩)
    | poll addr mask value => exact .inr (.inr ⟨mask, value, rest, hp, rfl⟩)
  · rintro (⟨rest, hp⟩ | ⟨v, rest, hp⟩ | ⟨mask, value, rest, hp, rfl⟩) <;> exact ⟨_, rest, hp, rfl, rfl⟩

/-- Settles O55: the step is refused exactly where the bus access is in error; a fault has no reason to carry
(LOG 15). -/
theorem refusedExactlyOutsideTheContract : Obligations.RefusedExactlyOutsideTheContract := by
  intro s hbase
  refine ⟨(step_refused_iff s).trans (and_congr_right fun _ => ?_), nofun⟩
  simp only [← next_access_iff, inContract_eq, busReg_toBool_eq_false_iff _ _ hbase]
  constructor
  · rintro ⟨op, rest, hp, hout⟩
    exact ⟨_, _, ⟨op, rest, hp, rfl, rfl⟩, hout⟩
  · rintro ⟨_, _, ⟨op, rest, hp, rfl, rfl⟩, hout⟩
    exact ⟨op, rest, hp, hout⟩

/-! ### The byte addresses of a frame (20_memory.md R68) -/

/-- Byte k of register n stands at offset 4n + k of the window (R68). -/
theorem windowByte_at (s : State) (n : Nat) {k : Nat} (hk : k < 4) :
    windowByte s (4 * n + k) = (readReg (regOfIndex n) s).extractLsb' (8 * k) 8 := by
  have hindex : (4 * n + k) / 4 = n := by omega
  have hbyte : (4 * n + k) % 4 = k := by omega
  rw [windowByte, hindex, hbyte]

/-- Settles O60: byte b is byte b mod 4 of frame word b div 4, and word j is register 16 + j or 40 + j. -/
theorem frameBytesAtConsecutiveAddresses : Obligations.FrameBytesAtConsecutiveAddresses := by
  intro s b hb
  have hword : b / 4 < 5 := by omega
  have hbyte : b % 4 < 4 := Nat.mod_lt b (by decide)
  have hin : regOfIndex (16 + b / 4) = .frameIn ⟨b / 4, hword⟩ := regOfIndex_indexOfReg rfl
  have hout : regOfIndex (40 + b / 4) = .frameOut ⟨b / 4, hword⟩ := regOfIndex_indexOfReg rfl
  rw [windowByte_at s _ hbyte, windowByte_at s _ hbyte, hin, hout]
  exact ⟨frameWord_byte s.frameIn _ b rfl, frameWord_byte s.frameOut _ b rfl⟩

end Sys2Proof.Machine
end

section
/-! PROOFS. The statements of 30_encoding.md: the command a word selects (O2), and the POLL of the HOST's program
(O56). -/

namespace Sys2Proof.Machine

/-! ### The command a word selects (30_encoding.md R80, R81) -/

/-- There are four OP codes (R80). -/
theorem op_cases (op : BitVec 2) : op = 0 ∨ op = 1 ∨ op = 2 ∨ op = 3 := by
  revert op
  decide

section
variable {w : Word}

/-- OP 0 is NOP (R81). -/
theorem decodeCmd_of_op_zero (h : w.extractLsb' 0 2 = 0) : decodeCmd w = .nop (w.extractLsb' 2 30) := by
  simp [decodeCmd, h]

/-- OP 1 is ENCODE (R81). -/
theorem decodeCmd_of_op_one (h : w.extractLsb' 0 2 = 1) : decodeCmd w = .encode (w.extractLsb' 2 30) := by
  simp [decodeCmd, h]

/-- OP 2 is DECODE (R81). -/
theorem decodeCmd_of_op_two (h : w.extractLsb' 0 2 = 2) : decodeCmd w = .decode (w.extractLsb' 2 30) := by
  simp [decodeCmd, h]

/-- OP 3 is the reserved OP (R81). -/
theorem decodeCmd_of_op_three (h : w.extractLsb' 0 2 = 3) :
    decodeCmd w = .reservedOp3 (w.extractLsb' 2 30) := by
  simp [decodeCmd, h]

end

/-- No command's meaning reads its bits [31:2], so words with one OP have one effect (R81). -/
theorem exec_decodeCmd_congr {w w' : Word} (s : State) (h : w.extractLsb' 0 2 = w'.extractLsb' 0 2) :
    exec (decodeCmd w) s = exec (decodeCmd w') s := by
  obtain hop | hop | hop | hop := op_cases (w'.extractLsb' 0 2)
  · rw [decodeCmd_of_op_zero (h.trans hop), decodeCmd_of_op_zero hop]
    rfl
  · rw [decodeCmd_of_op_one (h.trans hop), decodeCmd_of_op_one hop]
    rfl
  · rw [decodeCmd_of_op_two (h.trans hop), decodeCmd_of_op_two hop]
    rfl
  · rw [decodeCmd_of_op_three (h.trans hop), decodeCmd_of_op_three hop]
    rfl

/-- Settles O2. -/
theorem commandSelectedByLowTwoBits : Obligations.CommandSelectedByLowTwoBits :=
  ⟨fun _ => ⟨decodeCmd_of_op_zero, decodeCmd_of_op_one, decodeCmd_of_op_two, decodeCmd_of_op_three⟩,
    fun _ _ s h => exec_decodeCmd_congr s h⟩

/-! ### What a HOST read of a register leaves (70_reset_and_hazards.md R294, 10_state.md R38) -/

/-- The indices of the output registers, QOUT, TSOUT and FRAME_OUT (10_state.md R22). -/
def isOutputIndex (n : Nat) : Prop := (24 ≤ n ∧ n ≤ 36) ∨ (40 ≤ n ∧ n ≤ 44)

/-- A read is drawn only of an output register (R294). -/
theorem drawMask_of_not_output {n : Nat} (h : ¬ isOutputIndex n) : drawMask (regOfIndex n) = none := by
  unfold isOutputIndex at h
  cases hr : regOfIndex n with
  | qout k | tsout | frameOut j =>
    have hindex := indexOfReg_regOfIndex (n := n) (by simp [hr])
    rw [hr] at hindex
    have := Option.some.inj hindex
    omega
  | cmd | status | qin | tsin | frameIn | reserved => rfl

/-- A read of any word of FRAME_OUT is drawn; the last word has reserved bits (R38, R294). -/
theorem drawMask_frameOut (j : Fin 5) :
    drawMask (.frameOut j) = some (if j = 4 then 0x0000FFFF else 0xFFFFFFFF) :=
  (apply_ite some ..).symm

/-- The mask of a drawn read clears the reserved bits of TSOUT and of the last word of FRAME_OUT (R38, R294). -/
theorem drawMask_of_output {n : Nat} (h : isOutputIndex n) :
    ∃ mask, drawMask (regOfIndex n) = some mask ∧ (n = 36 → mask.toNat < 2 ^ 17) ∧
      (n = 44 → mask.toNat < 2 ^ 16) := by
  obtain hqout | rfl | hframe | rfl : (24 ≤ n ∧ n ≤ 35) ∨ n = 36 ∨ (40 ≤ n ∧ n ≤ 43) ∨ n = 44 := by
    unfold isOutputIndex at h
    omega
  · obtain ⟨k, hk⟩ := regOfIndex_eq_qout hqout.1 hqout.2
    exact ⟨0xFFFFFFFF, hk ▸ rfl, by omega, by omega⟩
  · exact ⟨0x0001FFFF, rfl, fun _ => by decide, by omega⟩
  · obtain ⟨j, hj⟩ := regOfIndex_eq_frameOut hframe.1 (by omega)
    exact ⟨_, hj ▸ drawMask_frameOut j, by omega, by omega⟩
  · exact ⟨0x0000FFFF, rfl, by omega, fun _ => by decide⟩

/-- A HOST read returns what the register holds, unless it is of an output register while BUSY = 1 (R294). -/
theorem hostRead_of_held {n : Nat} {s : State} (h : ¬ (s.status.busy = true ∧ isOutputIndex n)) :
    hostRead (regOfIndex n) s = { s with rdata := readReg (regOfIndex n) s } := by
  obtain hheld | ⟨mask, hmask, hbusy, _⟩ := hostRead_cases (regOfIndex n) s
  · exact hheld
  · have hout : isOutputIndex n := by_contra fun hno => by simp [drawMask_of_not_output hno] at hmask
    exact absurd ⟨hbusy, hout⟩ h

/-- A HOST read of an output register while BUSY = 1 is a draw, with the reserved bits 0 (R294, R38; LOG 5). -/
theorem hostRead_of_drawn {n : Nat} {s : State} (hbusy : s.status.busy = true) (hout : isOutputIndex n) :
    (hostRead (regOfIndex n) s).draws = s.draws + 1 ∧
      (n = 36 → (hostRead (regOfIndex n) s).rdata.toNat < 2 ^ 17) ∧
      (n = 44 → (hostRead (regOfIndex n) s).rdata.toNat < 2 ^ 16) := by
  obtain ⟨mask, hmask, htsout, hframe⟩ := drawMask_of_output hout
  have hread : hostRead (regOfIndex n) s =
      { s with rdata := Config.busyRead s.draws &&& mask, draws := s.draws + 1 } := by
    simp only [hostRead, hmask, hbusy, if_true]
  have hle : (Config.busyRead s.draws &&& mask).toNat ≤ mask.toNat := by
    rw [BitVec.toNat_and]
    exact Nat.and_le_right
  rw [hread]
  exact ⟨rfl, fun hn => hle.trans_lt (htsout hn), fun hn => hle.trans_lt (hframe hn)⟩

/-! ### POLL (30_encoding.md R93) -/

/-- One read of a POLL is a HOST read, after which the HOST goes on or stays at its line (R93). -/
theorem pollOnce_eq (r : Reg) (mask value : Word) (s : State) :
    pollOnce r mask value s = { s with
      rdata := (hostRead r s).rdata
      draws := (hostRead r s).draws
      prog := if (hostRead r s).rdata &&& mask = value then s.prog.tail else s.prog
      turns := s.turns.tail } := by
  simp only [pollOnce]
  split
  all_goals rw [hostRead_eq]; rfl

/-- Settles O56: the step is one read of the POLL, and the value read is the register's or a draw. -/
theorem pollRepeatsUntilTheValue : Obligations.PollRepeatsUntilTheValue := by
  intro s n mask value rest hlt hbase hturn hprog
  refine ⟨(hostRead (regOfIndex n) s).rdata, (hostRead (regOfIndex n) s).draws, ?_, ?_⟩
  · rw [step_host_poll hturn hprog (busReg_at s.params n hlt hbase), pollOnce_eq, hprog, List.tail_cons]
  · split
    · next hdrawn => exact hostRead_of_drawn hdrawn.1 hdrawn.2
    · next hheld =>
      rw [hostRead_of_held hheld]
      exact ⟨rfl, rfl⟩

end Sys2Proof.Machine
end

section
/-! PROOFS. The statements of 40_fixedpoint.md: quantize (O10), fits_within and the pre-shift (O11, O12), the two
roundings of avg (O13), and the decoder's arithmetic without a wrap (O21). -/

namespace Sys2Proof

/-! ### Vectors (00_scope.md R12) -/

/-- Component j of an operation on each component. -/
@[simp] theorem Vec3.get_map {α β : Type} (f : α → β) (v : Vec3 α) (j : Fin 3) : (v.map f).get j = f (v.get j) := by
  fin_cases j <;> rfl

/-- Component j of an operation on each pair of components. -/
@[simp] theorem Vec3.get_zipWith {α β γ : Type} (f : α → β → γ) (a : Vec3 α) (b : Vec3 β) (j : Fin 3) :
    (a.zipWith f b).get j = f (a.get j) (b.get j) := by
  fin_cases j <;> rfl

end Sys2Proof

namespace Sys2Proof.Machine

/-! ### When wrap32 takes effect (00_scope.md R10) -/

/-- wrap32 leaves exactly the 32-bit two's-complement values as they are. -/
theorem wrap32_eq_self_iff (v : Int) : wrap32 v = v ↔ isI2F30 v :=
  ⟨fun h => h ▸ wrap32_range v, fun h => wrap32_of_range v h.1 h.2⟩

/-- wrap32 keeps a value modulo 2^32. -/
theorem dvd_wrap32_sub (v : Int) : 2 ^ 32 ∣ wrap32 v - v := by
  unfold wrap32 sext low
  rw [BitVec.toInt_ofInt]
  exact Int.dvd_bmod_sub_self

/-- The low bits of a value shifted left stay 0 under wrap32. -/
theorem dvd_wrap32_mul (v : Int) {k : Nat} (hk : k ≤ 32) : 2 ^ k ∣ wrap32 (v * 2 ^ k) :=
  (dvd_iff_dvd_of_dvd_sub ((pow_dvd_pow 2 hk).trans (dvd_wrap32_sub _))).mpr (dvd_mul_left _ v)

/-- A value shifted to the top of the 32 bits is in range exactly when it is a W-bit two's-complement value. -/
theorem isI2F30_mul_iff (v : Int) {W : Nat} (hW : 1 ≤ W) (hW' : W ≤ 32) :
    isI2F30 (v * 2 ^ (32 - W)) ↔ -2 ^ (W - 1) ≤ v ∧ v ≤ 2 ^ (W - 1) - 1 := by
  have hpos : (0 : Int) < 2 ^ (32 - W) := by positivity
  have hsplit : (2 : Int) ^ 31 = 2 ^ (W - 1) * 2 ^ (32 - W) := by
    rw [← pow_add]
    congr 1
    omega
  rw [isI2F30, hsplit, Int.le_sub_one_iff, Int.le_sub_one_iff, ← neg_mul,
    mul_le_mul_iff_of_pos_right hpos, mul_lt_mul_iff_of_pos_right hpos]

/-! ### Rounding half away from zero (40_fixedpoint.md R126, R127, R131) -/

/-- Adding e away from zero and dividing toward zero divides the magnitude plus e, rounded down. -/
theorem tdiv_add_sign_mul (s : Int) {e : Int} (he : 0 ≤ e) (m : Int) :
    (s + s.sign * e).tdiv m = s.sign * ((|s| + e) / m) := by
  obtain hneg | rfl | hpos := lt_trichotomy s 0
  · have hsum : s + s.sign * e = -(|s| + e) := by
      rw [Int.sign_eq_neg_one_of_neg hneg, abs_of_neg hneg]
      ring
    rw [hsum, Int.neg_tdiv, Int.tdiv_eq_ediv_of_nonneg (by positivity), Int.sign_eq_neg_one_of_neg hneg, neg_one_mul]
  · simp
  · rw [Int.sign_eq_one_of_pos hpos, abs_of_pos hpos, one_mul, one_mul, Int.tdiv_eq_ediv_of_nonneg (by positivity)]

/-- Rounding half away from zero to a multiple of 2e is off by at most e. -/
theorem abs_roundHalfAway_sub_le (r : Int) {e : Int} (he : 0 < e) :
    |r.sign * ((|r| + e) / (2 * e)) * (2 * e) - r| ≤ e := by
  have hdiv := Int.ediv_mul_add_emod (|r| + e) (2 * e)
  have hmod := Int.emod_nonneg (|r| + e) (by positivity : 2 * e ≠ 0)
  have hmod' := Int.emod_lt_of_pos (|r| + e) (by positivity : 0 < 2 * e)
  have hmagnitude : abs ((|r| + e) / (2 * e) * (2 * e) - |r|) ≤ e := by
    rw [abs_le]
    constructor <;> linarith
  have hsign : |r.sign| ≤ 1 := by
    obtain h | h | h := Int.sign_trichotomy r <;> simp [h]
  calc |r.sign * ((|r| + e) / (2 * e)) * (2 * e) - r|
      = |r.sign * ((|r| + e) / (2 * e) * (2 * e) - |r|)| := by
        rw [mul_sub, Int.sign_mul_abs, mul_assoc]
    _ = |r.sign| * abs ((|r| + e) / (2 * e) * (2 * e) - |r|) := abs_mul _ _
    _ ≤ 1 * e := mul_le_mul hsign hmagnitude (abs_nonneg _) one_pos.le
    _ = e := one_mul e

/-- Settles O10: 2^(29-N) is half of 2^(30-N). -/
theorem quantizeRoundsHalfAwayFromZero : Obligations.QuantizeRoundsHalfAwayFromZero := by
  intro N r hN _
  have hclosed : quantize .towardZero N r = r.sign * ((|r| + 2 ^ (29 - N)) / 2 ^ (30 - N)) :=
    tdiv_add_sign_mul r (by positivity) _
  have hhalf : (2 : Int) ^ (30 - N) = 2 * 2 ^ (29 - N) := by
    rw [← pow_succ']
    congr 1
    omega
  refine ⟨hclosed, ?_⟩
  rw [hclosed, hhalf]
  exact abs_roundHalfAway_sub_le r (by positivity)

/-! ### The range test and the pre-shift (40_fixedpoint.md R132 to R134) -/

/-- The shift form of fits_within as a range: the value comes back exactly when the shift left does not wrap. -/
theorem fitsWithin_iff (v : Int) {W : Nat} (hW : 1 ≤ W) (hW' : W ≤ 32) :
    fitsWithin v W = true ↔ -2 ^ (W - 1) ≤ v ∧ v ≤ 2 ^ (W - 1) - 1 := by
  have hback : sra (wrap32 (v * 2 ^ (32 - W))) (32 - W) = v ↔ wrap32 (v * 2 ^ (32 - W)) = v * 2 ^ (32 - W) :=
    Int.ediv_eq_iff_eq_mul_left (by positivity) (dvd_wrap32_mul v (by omega))
  rw [fitsWithin, beq_iff_eq, hback, wrap32_eq_self_iff, isI2F30_mul_iff v hW hW']

/-- Settles O11. -/
theorem fitsWithinIsARangeTest : Obligations.FitsWithinIsARangeTest :=
  fun v _ _ hW hW' => fitsWithin_iff v hW hW'

/-- A pre-shifted delta fits 8 bits exactly when the delta fits 10 (R134). -/
theorem fitsWithin_preshift (d : Int) : fitsWithin (preshift d) 8 = fitsWithin d 10 := by
  rw [Bool.eq_iff_iff, fitsWithin_iff _ (by decide) (by decide), fitsWithin_iff _ (by decide) (by decide),
    preshift, sra]
  omega

/-- The decoder's inverse of the pre-shift clears the delta's low two bits (R134). -/
theorem unshift_preshift {d : Int} (hd : isI2F30 d) : unshift (preshift d) = d - d % 4 := by
  have hfloor : d / 2 ^ 2 * 2 ^ 2 = d - d % 4 := by omega
  rw [unshift, preshift, sra, hfloor, wrap32_eq_self_iff, isI2F30]
  omega

/-- Settles O12. -/
theorem preshiftFitsEightIffTen : Obligations.PreshiftFitsEightIffTen :=
  fun d hd => ⟨fitsWithin_preshift d, unshift_preshift hd, by omega, by omega⟩

/-! ### The two roundings of avg (40_fixedpoint.md R131, 90_conflicts.md C1) -/

/-- The average of two operands of sum `s`, with no wrap: what avg answers away from the 32-bit ends. -/
def unwrappedAvg (m : Config.AvgMode) (s : Int) : Int :=
  match m with
  | .shift => (s + s.sign) / 2
  | .halfAway => (s + s.sign).tdiv 2

/-- avg takes a wrap only for a sum at or past a 32-bit end. -/
theorem avg_eq_unwrapped (m : Config.AvgMode) {a b : Int} (hlow : -2 ^ 31 < a + b) (hhigh : a + b < 2 ^ 31 - 1) :
    avg m a b = unwrappedAvg m (a + b) := by
  have hsum : wrap32 (a + b) = a + b := wrap32_of_range _ (by omega) (by omega)
  have hstep : wrap32 (a + b + (a + b).sign) = a + b + (a + b).sign := by
    refine wrap32_of_range _ ?_ ?_ <;> obtain h | h | h := Int.sign_trichotomy (a + b) <;> omega
  cases m with
  | shift => rw [avg, hsum, hstep]; rfl
  | halfAway => rw [avg, hsum]; rfl

/-- avg is symmetric in its operands, at the 32-bit ends too. -/
theorem avg_comm (m : Config.AvgMode) (a b : Int) : avg m a b = avg m b a := by
  simp only [avg, add_comm a b]

/-- The default rounding is one below the label's for a negative even sum, and equal to it elsewhere (C1). -/
theorem unwrappedAvg_shift (s : Int) :
    unwrappedAvg .shift s = unwrappedAvg .halfAway s - if s < 0 ∧ s % 2 = 0 then 1 else 0 := by
  simp only [unwrappedAvg, Int.tdiv_eq_ediv, Int.sign_eq_one_of_pos two_pos]
  obtain hneg | rfl | hpos := lt_trichotomy s 0
  · rw [Int.sign_eq_neg_one_of_neg hneg]
    split_ifs <;> omega
  · rfl
  · rw [Int.sign_eq_one_of_pos hpos]
    split_ifs <;> omega

/-- Either rounding is within one of half the sum. -/
theorem unwrappedAvg_bounds (m : Config.AvgMode) (s : Int) :
    s - 2 ≤ 2 * unwrappedAvg m s ∧ 2 * unwrappedAvg m s ≤ s + 2 := by
  have hshift : s - 2 ≤ 2 * unwrappedAvg .shift s ∧ 2 * unwrappedAvg .shift s ≤ s + 1 := by
    simp only [unwrappedAvg]
    obtain h | h | h := Int.sign_trichotomy s <;> omega
  cases m with
  | shift => omega
  | halfAway =>
    have hrel := unwrappedAvg_shift s
    split_ifs at hrel <;> omega

/-- Settles O13. -/
theorem averageModesAgreeButForNegativeEvenSums : Obligations.AverageModesAgreeButForNegativeEvenSums := by
  intro a b hlow hhigh
  have hrel := unwrappedAvg_shift (a + b)
  rw [← avg_eq_unwrapped .shift hlow hhigh, ← avg_eq_unwrapped .halfAway hlow hhigh] at hrel
  refine ⟨?_, fun h => ?_, fun hneg heven => ?_, avg_comm _ a b, avg_comm _ a b⟩
  · simpa [avg_eq_unwrapped .halfAway hlow hhigh, unwrappedAvg] using tdiv_add_sign_mul (a + b) one_pos.le 2
  · rw [hrel, if_neg (by omega), sub_zero]
  · rw [hrel, if_pos ⟨hneg, heven⟩]

/-! ### No wrap on decode (40_fixedpoint.md R137) -/

/-- extract reads a field as a two's-complement value (R124). -/
@[simp] theorem extract_eq {W : Nat} (b : BitVec W) : extract b = b.toInt := rfl

/-- A W-bit field holds a W-bit two's-complement value. -/
theorem field_bounds {W : Nat} (b : BitVec W) : -2 ^ (W - 1) ≤ b.toInt ∧ b.toInt < 2 ^ (W - 1) :=
  ⟨BitVec.le_toInt b, BitVec.toInt_lt⟩

/-- Widening from N fractional bits is exact for every value of at most N + 2 bits (R128). -/
theorem dequantize_of_range {N : Nat} (hN : N ≤ 30) {q : Int} (hq : -2 ^ (N + 1) ≤ q ∧ q < 2 ^ (N + 1)) :
    dequantize N q = q * 2 ^ (30 - N) := by
  have hin : isI2F30 (q * 2 ^ (32 - (N + 2))) :=
    (isI2F30_mul_iff q (by omega) (by omega)).mpr ⟨hq.1, Int.le_sub_one_of_lt hq.2⟩
  rw [show 32 - (N + 2) = 30 - N by omega] at hin
  exact (wrap32_eq_self_iff _).mpr hin

/-- The widening of a triplet is exact where it is exact for the three samples. -/
theorem dequantize_sample {N : Nat} (hN : N ≤ 30) {t : Triplet (Vec3 Int)} {j : Fin 3}
    (hfirst : -2 ^ (N + 1) ≤ t.first.get j ∧ t.first.get j < 2 ^ (N + 1))
    (hmid : -2 ^ (N + 1) ≤ t.mid.get j ∧ t.mid.get j < 2 ^ (N + 1))
    (hlast : -2 ^ (N + 1) ≤ t.last.get j ∧ t.last.get j < 2 ^ (N + 1)) (s : Fin 3) :
    dequantize N ((t.get s).get j) = (t.get s).get j * 2 ^ (30 - N) := by
  fin_cases s
  exacts [dequantize_of_range hN hfirst, dequantize_of_range hN hmid, dequantize_of_range hN hlast]

/-- A middle sample takes no wrap: its delta has at most 11 bits, and the other two samples at most 30. -/
theorem add_avg_of_range (m : Config.AvgMode) {d f l : Int} (hd : -2 ^ 10 ≤ d ∧ d < 2 ^ 10)
    (hf : -2 ^ 29 ≤ f ∧ f < 2 ^ 29) (hl : -2 ^ 29 ≤ l ∧ l < 2 ^ 29) :
    add d (avg m f l) = d + unwrappedAvg m (f + l) := by
  have havg := unwrappedAvg_bounds m (f + l)
  rw [avg_eq_unwrapped m (by omega) (by omega)]
  exact wrap32_of_range _ (by omega) (by omega)

section LD
variable (p : Config.Params) (x : LDPayload) (j : Fin 3)

/-- L of a mode 2 payload is its field (42_modes.md R187). -/
theorem samplesLD_last : (samplesLD p x).last.get j = (x.l.get j).toInt :=
  Vec3.get_map extract x.l j

/-- F of a mode 2 payload is the exact difference of L and its field. -/
theorem samplesLD_first : (samplesLD p x).first.get j = (x.l.get j).toInt - (x.fd.get j).toInt := by
  have hl := field_bounds (x.l.get j)
  have hfd := field_bounds (x.fd.get j)
  simp only [samplesLD, Vec3.get_zipWith, Vec3.get_map, extract_eq]
  exact wrap32_of_range _ (by omega) (by omega)

/-- M of a mode 2 payload is the exact sum of its field and the unwrapped average of F and L. -/
theorem samplesLD_mid : (samplesLD p x).mid.get j = (x.md.get j).toInt
    + unwrappedAvg p.avgMode ((x.l.get j).toInt - (x.fd.get j).toInt + (x.l.get j).toInt) := by
  have hl := field_bounds (x.l.get j)
  have hfd := field_bounds (x.fd.get j)
  have hmd := field_bounds (x.md.get j)
  have hsum : (samplesLD p x).mid.get j =
      add (x.md.get j).toInt (avg p.avgMode ((samplesLD p x).first.get j) ((samplesLD p x).last.get j)) := by
    simp only [samplesLD, Vec3.get_zipWith, Vec3.get_map, extract_eq]
  rw [hsum, samplesLD_first, samplesLD_last]
  exact add_avg_of_range _ (by omega) (by omega) (by omega)

/-- Every sample of a mode 2 payload has at most 22 bits, so its widening is exact. -/
theorem samplesLD_dequantize (s : Fin 3) :
    dequantize 20 (((samplesLD p x).get s).get j) = ((samplesLD p x).get s).get j * 2 ^ 10 := by
  have hl := field_bounds (x.l.get j)
  have hfd := field_bounds (x.fd.get j)
  have hmd := field_bounds (x.md.get j)
  have havg := unwrappedAvg_bounds p.avgMode ((x.l.get j).toInt - (x.fd.get j).toInt + (x.l.get j).toInt)
  refine dequantize_sample (by decide) ?_ ?_ ?_ s
  · rw [samplesLD_first]
    omega
  · rw [samplesLD_mid]
    omega
  · rw [samplesLD_last]
    omega

end LD

section FL
variable (p : Config.Params) (x : FLPayload) (j : Fin 3)

/-- The middle delta of a mode 1 payload, with its pre-shift undone and no wrap (42_modes.md R193). -/
def unshiftedDelta : Int := if x.sh = 1 then (x.d.get j).toInt * 4 else (x.d.get j).toInt

/-- The middle delta of a mode 1 payload has at most 10 bits. -/
theorem unshiftedDelta_bounds : -2 ^ 9 ≤ unshiftedDelta x j ∧ unshiftedDelta x j < 2 ^ 9 := by
  have hd := field_bounds (x.d.get j)
  unfold unshiftedDelta
  split <;> omega

/-- unshift of a field takes no wrap. -/
theorem unshiftedDelta_eq :
    (if x.sh = 1 then (x.d.map extract).map unshift else x.d.map extract).get j = unshiftedDelta x j := by
  have hd := field_bounds (x.d.get j)
  unfold unshiftedDelta
  split
  · rw [Vec3.get_map, Vec3.get_map, extract_eq]
    exact wrap32_of_range _ (by omega) (by omega)
  · exact Vec3.get_map ..

/-- F of a mode 1 payload is its field (42_modes.md R193). -/
theorem samplesFL_first : (samplesFL p x).first.get j = (x.f.get j).toInt :=
  Vec3.get_map extract x.f j

/-- L of a mode 1 payload is its field (42_modes.md R193). -/
theorem samplesFL_last : (samplesFL p x).last.get j = (x.l.get j).toInt :=
  Vec3.get_map extract x.l j

/-- M of a mode 1 payload is the exact sum of its delta and the unwrapped average of F and L. -/
theorem samplesFL_mid : (samplesFL p x).mid.get j =
    unshiftedDelta x j + unwrappedAvg p.avgMode ((x.f.get j).toInt + (x.l.get j).toInt) := by
  have hf := field_bounds (x.f.get j)
  have hl := field_bounds (x.l.get j)
  have hd := unshiftedDelta_bounds x j
  have hsum : (samplesFL p x).mid.get j =
      add (unshiftedDelta x j) (avg p.avgMode ((samplesFL p x).first.get j) ((samplesFL p x).last.get j)) := by
    simp only [samplesFL, Vec3.get_zipWith, unshiftedDelta_eq]
  rw [hsum, samplesFL_first, samplesFL_last]
  exact add_avg_of_range _ (by omega) (by omega) (by omega)

/-- Every sample of a mode 1 payload has at most 17 bits, so its widening is exact. -/
theorem samplesFL_dequantize (s : Fin 3) :
    dequantize 15 (((samplesFL p x).get s).get j) = ((samplesFL p x).get s).get j * 2 ^ 15 := by
  have hf := field_bounds (x.f.get j)
  have hl := field_bounds (x.l.get j)
  have hd := unshiftedDelta_bounds x j
  have havg := unwrappedAvg_bounds p.avgMode ((x.f.get j).toInt + (x.l.get j).toInt)
  refine dequantize_sample (by decide) ?_ ?_ ?_ s
  · rw [samplesFL_first]
    omega
  · rw [samplesFL_mid]
    omega
  · rw [samplesFL_last]
    omega

end FL

/-- A component of a mode 0 sample widens exactly. -/
theorem dequantize_extract (b : BitVec 13) : dequantize 12 (extract b) = b.toInt * 2 ^ 18 := by
  have hb := field_bounds b
  exact dequantize_of_range (by decide) (by rw [extract_eq]; omega)

/-- Settles O21: the fields are narrow, so every sum stays inside 32 bits and every sample inside N + 2 bits. -/
theorem decodeArithmeticNeverWraps : Obligations.DecodeArithmeticNeverWraps := fun p j =>
  ⟨fun x => ⟨samplesLD_last p x j, samplesLD_first p x j, samplesLD_mid p x j, samplesLD_dequantize p x j⟩,
    fun x => ⟨samplesFL_last p x j, samplesFL_first p x j, samplesFL_mid p x j, samplesFL_dequantize p x j⟩,
    dequantize_extract⟩

end Sys2Proof.Machine
end

section
/-! PROOFS. The statements of 41_elision.md: the missing component (O15, O16, O20), the max-abs index (O17), the
bounds of elision (O18) and the inverse of elision (O19). -/

namespace Sys2Proof

/-! ### Components of quaternions and triplets (00_scope.md R12) -/

/-- Component c of an operation on each component. -/
@[simp] theorem Quat.get_map {α β : Type} (f : α → β) (q : Quat α) (c : Fin 4) : (q.map f).get c = f (q.get c) := by
  fin_cases c <;> rfl

/-- Sample s of an operation on each sample. -/
@[simp] theorem Triplet.get_map {α β : Type} (f : α → β) (t : Triplet α) (s : Fin 3) :
    (t.map f).get s = f (t.get s) := by
  fin_cases s <;> rfl

/-- A quaternion is its four components. -/
theorem Quat.ext_get {α : Type} {a b : Quat α} (h : ∀ c : Fin 4, a.get c = b.get c) : a = b := by
  cases a
  cases b
  exact (Quat.mk.injEq ..).mpr ⟨h 0, h 1, h 2, h 3⟩

/-- The component just replaced. -/
@[simp] theorem Quat.get_set_same {α : Type} (q : Quat α) (c : Fin 4) (x : α) : (q.set c x).get c = x := by
  fin_cases c <;> rfl

end Sys2Proof

namespace Sys2Proof.Machine

/-! ### The retained indices (41_elision.md R162, R164) -/

/-- Every index but the missing one is retained: i + 1, i + 2 or i + 3, modulo 4. -/
theorem exists_retained {c i : Fin 4} (h : c ≠ i) : ∃ j : Fin 3, c = i + j.succ := by
  obtain ⟨j, hj⟩ := Fin.exists_succ_eq.mpr (sub_ne_zero.mpr h)
  exact ⟨j, by rw [hj, add_sub_cancel]⟩

/-- Component j of to_quat3, with its wrap. -/
theorem toQuat3_get (q : Quat Int) (i : Fin 4) (j : Fin 3) :
    (toQuat3 q i).get j = wrap32 (esign q i * q.get (i + j.succ)) := by
  fin_cases j <;> rfl

/-- reconstruct places the root at the missing index. -/
theorem reconstruct_get_missing (alg : Config.ReconSqrt) (i : Fin 4) (v : Vec3 Int) :
    (reconstruct alg i v).get i = reconD alg v :=
  Quat.get_set_same ..

/-- reconstruct places v[j] at the retained index j + 1 places after the missing one. -/
theorem reconstruct_get_retained (alg : Config.ReconSqrt) (i : Fin 4) (v : Vec3 Int) (j : Fin 3) :
    (reconstruct alg i v).get (i + j.succ) = v.get j := by
  fin_cases i <;> fin_cases j <;> rfl

/-- The norm by components. -/
theorem normSq_eq_sum (q : Quat Int) : normSq q = ∑ c : Fin 4, q.get c ^ 2 := by
  rw [Fin.sum_univ_four]
  rfl

/-- A quaternion's squares: the missing one and the three retained ones. -/
theorem normSq_eq_missing_add_retained (q : Quat Int) (i : Fin 4) :
    normSq q = q.get i ^ 2 + ∑ j : Fin 3, q.get (i + j.succ) ^ 2 :=
  calc normSq q = ∑ c : Fin 4, q.get c ^ 2 := normSq_eq_sum q
    _ = ∑ c : Fin 4, q.get (i + c) ^ 2 := (Equiv.sum_comp (Equiv.addLeft i) fun c => q.get c ^ 2).symm
    _ = q.get i ^ 2 + ∑ j : Fin 3, q.get (i + j.succ) ^ 2 := by rw [Fin.sum_univ_succ, add_zero]

/-! ### The elision sign (41_elision.md R161) -/

/-- The sign is a unit. -/
theorem esign_cases (q : Quat Int) (i : Fin 4) : esign q i = -1 ∨ esign q i = 1 :=
  ite_eq_or_eq ..

/-- The sign makes its own component non-negative. -/
theorem esign_mul_self (q : Quat Int) (i : Fin 4) : esign q i * q.get i = |q.get i| := by
  unfold esign
  split
  · next hneg => rw [abs_of_neg hneg, neg_one_mul]
  · next hpos => rw [abs_of_nonneg (not_lt.mp hpos), one_mul]

/-- The sign keeps magnitudes. -/
theorem abs_esign_mul (q : Quat Int) (i : Fin 4) (x : Int) : |esign q i * x| = |x| := by
  obtain h | h := esign_cases q i <;> simp [h]

section
variable {q : Quat Int} (hq : ∀ c : Fin 4, -2 ^ 31 < q.get c ∧ q.get c < 2 ^ 31) (i : Fin 4) (j : Fin 3)
include hq

/-- The negation of R162 takes no wrap away from -2^31. -/
theorem toQuat3_get_of_range : (toQuat3 q i).get j = esign q i * q.get (i + j.succ) := by
  have hin : -2 ^ 31 < esign q i * q.get (i + j.succ) ∧ esign q i * q.get (i + j.succ) < 2 ^ 31 := by
    rw [← abs_lt, abs_esign_mul, abs_lt]
    exact hq _
  rw [toQuat3_get]
  exact wrap32_of_range _ hin.1.le (Int.le_sub_one_of_lt hin.2)

/-- A retained component keeps its magnitude. -/
theorem abs_toQuat3_get : |(toQuat3 q i).get j| = |q.get (i + j.succ)| := by
  rw [toQuat3_get_of_range hq, abs_esign_mul]

/-- A retained component keeps its square. -/
theorem toQuat3_get_sq : (toQuat3 q i).get j ^ 2 = q.get (i + j.succ) ^ 2 :=
  (sq_eq_sq_iff_abs_eq_abs _ _).mpr (abs_toQuat3_get hq i j)

/-- A retained component of an elided quaternion comes back times the sign, whatever the root (R167). -/
theorem reconstruct_toQuat3_retained (alg : Config.ReconSqrt) {c : Fin 4} (h : c ≠ i) :
    (reconstruct alg i (toQuat3 q i)).get c = esign q i * q.get c := by
  obtain ⟨j, rfl⟩ := exists_retained h
  rw [reconstruct_get_retained, toQuat3_get_of_range hq]

end

/-! ### The missing component (41_elision.md R165) -/

/-- The radicand by components. -/
theorem radicand_eq_sum (v : Vec3 Int) : radicand v = 2 ^ 60 - ∑ j : Fin 3, v.get j ^ 2 := by
  rw [Fin.sum_univ_three]
  rfl

/-- The radicand is at most the square of real 1. -/
theorem radicand_le (v : Vec3 Int) : radicand v ≤ 2 ^ 60 := by
  rw [radicand_eq_sum]
  exact sub_le_self _ (by positivity)

/-- The radicand of an elided quaternion: 2^60 less the squares of the other three components. -/
theorem radicand_toQuat3 {q : Quat Int} (hq : ∀ c : Fin 4, -2 ^ 31 < q.get c ∧ q.get c < 2 ^ 31) (i : Fin 4) :
    radicand (toQuat3 q i) = 2 ^ 60 - (normSq q - q.get i ^ 2) := by
  rw [radicand_eq_sum, normSq_eq_missing_add_retained q i, add_sub_cancel_left]
  simp only [toQuat3_get_sq hq]

/-- The bitwise root is the library's floor root. -/
theorem isqrt_eq_sqrt (n : Nat) : isqrt n = Nat.sqrt n :=
  Nat.eq_sqrt.mpr (isqrtIsTheFloorRoot n)

/-- The root of a square is the magnitude. -/
theorem isqrt_sq_toNat (x : Int) : isqrt (x ^ 2).toNat = x.natAbs := by
  rw [isqrt_eq_sqrt, ← Int.natAbs_sq, ← Int.natCast_pow, Int.toNat_natCast, Nat.sqrt_eq']

/-- The clamp: a radicand of 0 or less gives 0 under every root. -/
theorem reconD_of_nonpos (alg : Config.ReconSqrt) {v : Vec3 Int} (h : radicand v ≤ 0) : reconD alg v = 0 :=
  if_pos h

/-- The default root, with the clamp in toNat. -/
theorem reconD_floor (v : Vec3 Int) : reconD .floor v = isqrt (radicand v).toNat := by
  by_cases h : radicand v ≤ 0
  · rw [reconD_of_nonpos _ h, Int.toNat_of_nonpos h, isqrt_eq_sqrt, Nat.sqrt_zero, Nat.cast_zero]
  · exact if_neg h

/-- A root other than the default, where the clamp does not apply (LOG 7). -/
theorem reconD_other (tag : Nat) {v : Vec3 Int} (h : ¬ radicand v ≤ 0) :
    reconD (.other tag) v = min (Config.otherRoot tag v.v0 v.v1 v.v2 : Int) (2 ^ 30) :=
  if_neg h

/-- Every root answers from 0 to real 1: the floor root by the size of the radicand, any other by its cut-off. -/
theorem reconD_bounds (alg : Config.ReconSqrt) (v : Vec3 Int) : 0 ≤ reconD alg v ∧ reconD alg v ≤ 2 ^ 30 := by
  cases alg with
  | floor =>
    have hroot : isqrt (radicand v).toNat ≤ 2 ^ 30 := by
      rw [isqrt_eq_sqrt, ← Nat.sqrt_eq' (2 ^ 30)]
      exact Nat.sqrt_le_sqrt (Int.toNat_le.mpr (radicand_le v))
    rw [reconD_floor]
    exact ⟨Int.natCast_nonneg _, mod_cast hroot⟩
  | other tag =>
    by_cases h : radicand v ≤ 0
    · rw [reconD_of_nonpos _ h]
      decide
    · rw [reconD_other tag h]
      exact ⟨le_min (Int.natCast_nonneg _) (by positivity), min_le_right _ _⟩

/-- A positive radicand lies between the squares of the default root and of the next integer. -/
theorem reconD_floor_sq {v : Vec3 Int} (h : 0 < radicand v) :
    reconD .floor v ^ 2 ≤ radicand v ∧ radicand v < (reconD .floor v + 1) ^ 2 := by
  obtain ⟨hle, hlt⟩ := isqrtIsTheFloorRoot (radicand v).toNat
  rw [reconD_floor, sq, sq]
  zify [Int.toNat_of_nonneg h.le] at hle hlt
  exact ⟨hle, hlt⟩

/-- Settles O15. -/
theorem missingComponentIsTheClampedFloorRoot : Obligations.MissingComponentIsTheClampedFloorRoot :=
  fun v => ⟨reconD_of_nonpos .floor, reconD_floor_sq, reconD_bounds .floor v⟩

/-- Settles O16: squares that sum to 2^60 or more leave no positive radicand. -/
theorem everyRootIsClampedAndBounded : Obligations.EveryRootIsClampedAndBounded := fun alg v =>
  have ⟨hlow, hhigh⟩ := reconD_bounds alg v
  ⟨hlow, hhigh, fun h => reconD_of_nonpos alg (sub_nonpos.mpr h)⟩

/-- Settles O19: the retained components need no root, and the radicand of an exactly unit quaternion is the
square of its missing component. -/
theorem reconstructInvertsElision : Obligations.ReconstructInvertsElision := by
  intro q i hq
  have hmissing : (reconstruct .floor i (toQuat3 q i)).get i
      = isqrt (2 ^ 60 - (normSq q - q.get i ^ 2)).toNat := by
    rw [reconstruct_get_missing, reconD_floor, radicand_toQuat3 hq]
  refine ⟨fun alg c => reconstruct_toQuat3_retained hq i alg, hmissing, fun hunit => Quat.ext_get fun c => ?_⟩
  rw [Quat.get_map]
  obtain rfl | hc := eq_or_ne c i
  · rw [hmissing, show normSq q = 2 ^ 60 from hunit, sub_sub_cancel, isqrt_sq_toNat, esign_mul_self,
      Int.natCast_natAbs]
  · exact reconstruct_toQuat3_retained hq i .floor hc

/-- A rebuilt quaternion is non-negative at its missing index (R166). -/
theorem rebuild_get_missing_nonneg (p : Config.Params) (N : Nat) (idx : BitVec 2) (v : Vec3 Int) :
    0 ≤ (rebuild p N idx v).get (idxOf idx) := by
  rw [rebuild, reconstruct_get_missing]
  exact (reconD_bounds _ _).1

/-- Settles O20: each sample of each mode is rebuilt from its missing index. -/
theorem decodedMissingComponentIsNonNegative : Obligations.DecodedMissingComponentIsNonNegative := by
  intro p s
  refine ⟨fun x => ?_, fun x => ?_, fun x => ?_⟩
  · rw [unpackLD, Triplet.get_map]
    exact rebuild_get_missing_nonneg ..
  · rw [unpackFL, Triplet.get_map]
    exact rebuild_get_missing_nonneg ..
  · rw [unpackInd, Triplet.get_map]
    exact rebuild_get_missing_nonneg ..

/-! ### The max-abs index (41_elision.md R160) -/

/-- One comparison of max_abs_idx: candidate `c` replaces `best` only when its magnitude is strictly greater. -/
def betterIdx (q : Quat Int) (best c : Fin 4) : Fin 4 := if (q.get c).natAbs > (q.get best).natAbs then c else best

/-- max_abs_idx tries the candidates 1, 2, 3 in order. -/
theorem maxAbsIdx_eq (q : Quat Int) :
    maxAbsIdx q = betterIdx q (betterIdx q (betterIdx q 0 1) 2) 3 := rfl

/-- One comparison in absolute values. -/
theorem betterIdx_eq (q : Quat Int) (best c : Fin 4) :
    betterIdx q best c = if |q.get best| < |q.get c| then c else best := by
  simp only [betterIdx, gt_iff_lt, ← Nat.cast_lt (α := Int), Int.natCast_natAbs]

/-- Among the indices below `k`, `best` is the lowest of greatest magnitude. -/
structure LowestMaxBelow (q : Quat Int) (k : Nat) (best : Fin 4) : Prop where
  below : best.val < k
  le : ∀ c : Fin 4, c.val < k → |q.get c| ≤ |q.get best|
  lt : ∀ c : Fin 4, c < best → |q.get c| < |q.get best|

/-- One comparison takes one more index into account. -/
theorem LowestMaxBelow.step {q : Quat Int} {best c : Fin 4} (h : LowestMaxBelow q c.val best) :
    LowestMaxBelow q (c.val + 1) (betterIdx q best c) := by
  have hcases : ∀ d : Fin 4, d.val < c.val + 1 → d < c ∨ d = c := fun d hd =>
    (Fin.le_iff_val_le_val.mpr (Nat.le_of_lt_succ hd)).lt_or_eq
  rw [betterIdx_eq]
  split
  · next hbest =>
    have hlt : ∀ d : Fin 4, d < c → |q.get d| < |q.get c| := fun d hd => (h.le d hd).trans_lt hbest
    refine ⟨Nat.lt_succ_self _, fun d hd => ?_, hlt⟩
    obtain hdc | rfl := hcases d hd
    · exact (hlt d hdc).le
    · exact le_rfl
  · next hkeep =>
    refine ⟨Nat.lt_succ_of_lt h.below, fun d hd => ?_, h.lt⟩
    obtain hdc | rfl := hcases d hd
    · exact h.le d hdc
    · exact not_lt.mp hkeep

/-- Index 0 alone: where max_abs_idx starts. -/
theorem lowestMaxBelow_one (q : Quat Int) : LowestMaxBelow q 1 0 where
  below := by decide
  le c hc := by rw [Fin.val_eq_zero_iff.mp (Nat.lt_one_iff.mp hc)]
  lt c hc := absurd hc c.not_lt_zero

/-- max_abs_idx is the lowest index of greatest magnitude among all four. -/
theorem maxAbsIdx_lowestMax (q : Quat Int) : LowestMaxBelow q 4 (maxAbsIdx q) := by
  have htwo := (lowestMaxBelow_one q).step (c := 1)
  have hthree := htwo.step (c := 2)
  rw [maxAbsIdx_eq]
  exact hthree.step (c := 3)

/-- No component exceeds the chosen one in magnitude. -/
theorem abs_get_le_maxAbsIdx (q : Quat Int) (c : Fin 4) : |q.get c| ≤ |q.get (maxAbsIdx q)| :=
  (maxAbsIdx_lowestMax q).le c c.isLt

/-- Settles O17. -/
theorem largestComponentLowestIndex : Obligations.LargestComponentLowestIndex := fun q =>
  ⟨abs_get_le_maxAbsIdx q, (maxAbsIdx_lowestMax q).lt⟩

/-! ### The bounds of elision at the max-abs index (41_elision.md R163) -/

/-- The four squares are each at most the greatest. -/
theorem normSq_le_four_mul_maxAbs_sq (q : Quat Int) : normSq q ≤ 4 * q.get (maxAbsIdx q) ^ 2 :=
  calc normSq q = ∑ c : Fin 4, q.get c ^ 2 := normSq_eq_sum q
    _ ≤ ∑ _c : Fin 4, q.get (maxAbsIdx q) ^ 2 := Finset.sum_le_sum fun c _ => sq_le_sq.mpr (abs_get_le_maxAbsIdx q c)
    _ = 4 * q.get (maxAbsIdx q) ^ 2 := by simp

/-- One retained square and the missing one are two of the four. -/
theorem retained_sq_add_missing_sq_le (q : Quat Int) (i : Fin 4) (j : Fin 3) :
    q.get (i + j.succ) ^ 2 + q.get i ^ 2 ≤ normSq q := by
  rw [normSq_eq_missing_add_retained q i, add_comm]
  exact add_le_add_right
    (Finset.single_le_sum (f := fun j : Fin 3 => q.get (i + j.succ) ^ 2) (fun j _ => sq_nonneg _) (Finset.mem_univ j)) _

/-- Settles O18: the missing component is the greatest, so its square bounds a quarter of the sum from above, and
with any retained square it is at most the sum. -/
theorem unitElisionBounds : Obligations.UnitElisionBounds := by
  intro q hq
  have hquarter := normSq_le_four_mul_maxAbs_sq q
  refine ⟨esign_mul_self q _, hquarter, fun hnorm => ?_, fun j => ?_⟩
  · have hsq : ((2 : Int) ^ 29) ^ 2 ≤ q.get (maxAbsIdx q) ^ 2 := by omega
    simpa using sq_le_sq.mp hsq
  · have habs : |(toQuat3 q (maxAbsIdx q)).get j| ≤ |q.get (maxAbsIdx q)| :=
      (abs_toQuat3_get hq _ j).trans_le (abs_get_le_maxAbsIdx q _)
    have hsq : (toQuat3 q (maxAbsIdx q)).get j ^ 2 ≤ q.get (maxAbsIdx q) ^ 2 := sq_le_sq.mpr habs
    have hpair : (toQuat3 q (maxAbsIdx q)).get j ^ 2 + q.get (maxAbsIdx q) ^ 2 ≤ normSq q := by
      rw [toQuat3_get_sq hq]
      exact retained_sq_add_missing_sq_le q _ j
    exact ⟨habs, by omega, hpair, fun hnorm => by omega⟩

end Sys2Proof.Machine
end

section
/-! PROOFS. The statements of 42_modes.md: the fields of the default frames (O39, O40), the completions of the three
kinds of frame (O35, O36, O37), mode selection (O24), what fits at unit norm (O22, O23) and the round trips of the
three modes (O26, O27, O28). -/

namespace Sys2Proof

/-! ### The fields of a decoded frame (30_encoding.md R87 to R89) -/

/-- A vector is its three components. -/
theorem Vec3.ext_get {α : Type} {a b : Vec3 α} (h : ∀ j : Fin 3, a.get j = b.get j) : a = b := by
  cases a
  cases b
  exact (Vec3.mk.injEq ..).mpr ⟨h 0, h 1, h 2⟩

/-- Every field of a mode 0 payload is read at its offset (42_modes.md R196). -/
theorem readInd_get (lay : Config.Layout) (fr : Frame) (f : IndField) :
    (readInd lay fr).get f = fieldRead fr (indOffset lay f) f.width := by
  cases f with
  | idx s => fin_cases s <;> rfl
  | c s j => fin_cases s <;> fin_cases j <;> rfl

/-- Every field of a mode 1 payload is read at its offset (42_modes.md R193). -/
theorem readFL_get (lay : Config.Layout) (fr : Frame) (f : FLField) :
    (readFL lay fr).get f = fieldRead fr (flOffset lay f) f.width := by
  cases f with
  | idx => rfl
  | sh => rfl
  | f j => fin_cases j <;> rfl
  | l j => fin_cases j <;> rfl
  | d j => fin_cases j <;> rfl

/-- Every field of a mode 2 payload is read at its offset (42_modes.md R187). -/
theorem readLD_get (lay : Config.Layout) (fr : Frame) (f : LDField) :
    (readLD lay fr).get f = fieldRead fr (ldOffset lay f) f.width := by
  cases f with
  | idx => rfl
  | l j => fin_cases j <;> rfl
  | fd j => fin_cases j <;> rfl
  | md j => fin_cases j <;> rfl

section
variable {lay : Config.Layout} {fr : Frame}

/-- Mode code 0 (30_encoding.md R83). -/
theorem decodeFrame_of_code_zero (h : fieldRead fr 0 2 = 0) :
    decodeFrame lay fr
      = .frameIndividual (readInd lay fr) (readTs fr .individual) (fieldRead fr slackOffset 2) := by
  rw [decodeFrame, h]
  rfl

/-- Mode code 1 (30_encoding.md R83). -/
theorem decodeFrame_of_code_one (h : fieldRead fr 0 2 = 1) :
    decodeFrame lay fr
      = .frameFirstLastDeltaMid (readFL lay fr) (readTs fr .firstLastDeltaMid) (fieldRead fr slackOffset 2) := by
  rw [decodeFrame, h]
  rfl

/-- Mode code 2 (30_encoding.md R83). -/
theorem decodeFrame_of_code_two (h : fieldRead fr 0 2 = 2) :
    decodeFrame lay fr = .frameLastDeltaFirstDeltaMid (readLD lay fr) (readTs fr .lastDeltaFirstDeltaMid) := by
  rw [decodeFrame, h]
  rfl

end

section
variable (s j : Fin 3)

/-- IDX_s of the table (R87). -/
theorem indOffset_standard_idx : indOffset standardLayout (.idx s) = 2 + 41 * s.val := by fin_cases s <;> rfl

/-- C_s[j] of the table (R87). -/
theorem indOffset_standard_c : indOffset standardLayout (.c s j) = 4 + 41 * s.val + 13 * j.val := by
  fin_cases s <;> fin_cases j <;> rfl

/-- F[j] of the table (R88). -/
theorem flOffset_standard_f : flOffset standardLayout (.f j) = 4 + 16 * j.val := by fin_cases j <;> rfl

/-- L[j] of the table (R88). -/
theorem flOffset_standard_l : flOffset standardLayout (.l j) = 52 + 16 * j.val := by fin_cases j <;> rfl

/-- D[j] of the table (R88). -/
theorem flOffset_standard_d : flOffset standardLayout (.d j) = 101 + 8 * j.val := by fin_cases j <;> rfl

/-- L[j] of the table (R89). -/
theorem ldOffset_standard_l : ldOffset standardLayout (.l j) = 4 + 21 * j.val := by fin_cases j <;> rfl

/-- FD[j] of the table (R89). -/
theorem ldOffset_standard_fd : ldOffset standardLayout (.fd j) = 67 + 13 * j.val := by fin_cases j <;> rfl

/-- MD[j] of the table (R89). -/
theorem ldOffset_standard_md : ldOffset standardLayout (.md j) = 106 + 7 * j.val := by fin_cases j <;> rfl

end

/-- Settles O39: each field is read at its offset, and the offset is the table's. -/
theorem individualFieldsOfTheDefaultFrame : Obligations.IndividualFieldsOfTheDefaultFrame := by
  intro fr h
  refine ⟨_, _, _, decodeFrame_of_code_zero h, fun s => ⟨?_, fun j => ?_⟩, rfl, rfl, rfl⟩
  · rw [← indOffset_standard_idx]
    exact readInd_get _ _ (.idx s)
  · rw [← indOffset_standard_c]
    exact readInd_get _ _ (.c s j)

/-- Settles O40: each field is read at its offset, and the offset is the table's. -/
theorem deltaFieldsOfTheDefaultFrame : Obligations.DeltaFieldsOfTheDefaultFrame := by
  refine ⟨fun fr h => ⟨_, _, _, decodeFrame_of_code_one h, rfl, rfl, fun j => ?_, rfl, rfl, rfl⟩,
    fun fr h => ⟨_, _, decodeFrame_of_code_two h, rfl, fun j => ?_, rfl, rfl⟩⟩
  · rw [← flOffset_standard_f, ← flOffset_standard_l, ← flOffset_standard_d]
    exact ⟨readFL_get _ _ (.f j), readFL_get _ _ (.l j), readFL_get _ _ (.d j)⟩
  · rw [← ldOffset_standard_l, ← ldOffset_standard_fd, ← ldOffset_standard_md]
    exact ⟨readLD_get _ _ (.l j), readLD_get _ _ (.fd j), readLD_get _ _ (.md j)⟩

end Sys2Proof

namespace Sys2Proof.Machine

/-! ### The completions of the three kinds of frame (43_commands.md R236, R239) -/

/-- The whole next state of a DECODE that does not fail, one field at a time. -/
theorem completeDecode_eq (m : Mode) (q : Triplet (Quat Int)) (ts : TimeStamp) (s : State) :
    completeDecode m q ts s = { s with
      qout := q.map wordsOfQuat
      tsout := ts
      status := { busy := false, done := true, decFail := false, cmdErr := s.status.cmdErr, mode := m }
      pending := none
      turns := s.turns.tail } := rfl

/-- Settles O35: a mode 0 frame completes with unpack_IND of its payload (42_modes.md R196). -/
theorem individualFrameCompletes : Obligations.IndividualFrameCompletes := fun p ts _ s =>
  congrArg Host.Outcome.next (completeDecode_eq .individual (unpackInd s.params p) ts s)

/-- Settles O36: a mode 1 frame completes with unpack_FL of its payload, whose delta is widened in both senses of SH
(42_modes.md R193). -/
theorem firstLastDeltaMidFrameCompletes : Obligations.FirstLastDeltaMidFrameCompletes := by
  intro p ts k s mid q
  have hunpack : (unpackFL s.params p).map wordsOfQuat =
      { first := q p.f.v0.toInt p.f.v1.toInt p.f.v2.toInt
        mid := q (mid p.f.v0 p.l.v0 p.d.v0) (mid p.f.v1 p.l.v1 p.d.v1) (mid p.f.v2 p.l.v2 p.d.v2)
        last := q p.l.v0.toInt p.l.v1.toInt p.l.v2.toInt } := by
    by_cases hsh : p.sh = 1
    · simp only [unpackFL, samplesFL, mid, if_pos hsh]
      rfl
    · simp only [unpackFL, samplesFL, mid, if_neg hsh]
      rfl
  rw [← hunpack]
  exact congrArg Host.Outcome.next (completeDecode_eq .firstLastDeltaMid (unpackFL s.params p) ts s)

/-- Settles O37: a mode 2 frame completes with unpack_LD of its payload (42_modes.md R187). -/
theorem lastDeltaFirstDeltaMidFrameCompletes : Obligations.LastDeltaFirstDeltaMidFrameCompletes := fun p ts s =>
  congrArg Host.Outcome.next (completeDecode_eq .lastDeltaFirstDeltaMid (unpackLD s.params p) ts s)

/-! ### Mode selection (42_modes.md R188, R190, R191, R199, R200) -/

/-- A vector fits when each component does (40_fixedpoint.md R132, R135). -/
theorem vecFits_iff (v : Vec3 Int) (W : Nat) : vecFits v W = true ↔ ∀ j : Fin 3, fitsWithin (v.get j) W = true := by
  simp [vecFits, Vec3.all, Vec3.get, Fin.forall_fin_succ, and_assoc]

/-- The range a fitting vector's components have (40_fixedpoint.md R133). -/
theorem bounds_of_vecFits {v : Vec3 Int} {W : Nat} (hW : 1 ≤ W) (hW' : W ≤ 32) (h : vecFits v W = true)
    (j : Fin 3) : -2 ^ (W - 1) ≤ v.get j ∧ v.get j ≤ 2 ^ (W - 1) - 1 :=
  (fitsWithin_iff _ hW hW').mp ((vecFits_iff v W).mp h j)

/-- A vector whose components are in range fits. -/
theorem vecFits_of_bounds {v : Vec3 Int} {W : Nat} (hW : 1 ≤ W) (hW' : W ≤ 32)
    (h : ∀ j : Fin 3, -2 ^ (W - 1) ≤ v.get j ∧ v.get j ≤ 2 ^ (W - 1) - 1) : vecFits v W = true :=
  (vecFits_iff v W).mpr fun j => (fitsWithin_iff _ hW hW').mpr (h j)

/-- DS fits 8 bits exactly when the delta fits 10: as it is, or pre-shifted (R191). -/
theorem vecFits_shiftedDelta (d : Vec3 Int) : vecFits (shiftedDelta d) 8 = vecFits d 10 := by
  unfold shiftedDelta shFlag
  cases h : vecFits d 8 with
  | true =>
    have hten : vecFits d 10 = true := vecFits_of_bounds (by decide) (by decide) fun j => by
      have hd := bounds_of_vecFits (by decide) (by decide) h j
      omega
    simp [h, hten]
  | false =>
    rw [Bool.eq_iff_iff]
    simp [vecFits_iff, fitsWithin_preshift]

/-- The gate in absolute values (R188). -/
theorem gateFL_iff (q : Triplet (Quat Int)) (idx : Fin 4) :
    gateFL q idx = true ↔ 2 ^ 29 < |q.first.get idx| ∧ 2 ^ 29 < |q.last.get idx| := by
  rw [gateFL, Bool.and_eq_true, decide_eq_true_iff, decide_eq_true_iff, ← Int.natCast_natAbs, ← Int.natCast_natAbs]
  omega

/-- The mode code of an encoded frame, by the order of the tests (R199). -/
theorem encFrame_code (p : Config.Params) (q : Triplet (Quat Int)) (ts : TimeStamp) :
    fieldRead (encFrame p q ts) 0 2 =
      if okLD p (samplesAt p 20 q) then 2 else if okFL p q (sharedIdx q) (samplesAt p 15 q) then 1 else 0 := by
  rw [encFrame_selector, selectMode, apply_ite Mode.code, apply_ite Mode.code]
  rfl

/-- Settles O24. -/
theorem modeIsTheFirstThatFits : Obligations.ModeIsTheFirstThatFits := by
  intro p q ts idx ld fl
  have hcode : fieldRead (encFrame p q ts) 0 2 = if okLD p ld then 2 else if okFL p q idx fl then 1 else 0 :=
    encFrame_code p q ts
  have hshut : okFL p q idx fl = false ↔ gateFL q idx = false ∨ vecFits (shiftedDelta (midDelta p fl)) 8 = false :=
    Bool.and_eq_false_iff
  have hopen : okFL p q idx fl = true ↔ 2 ^ 29 < |q.first.get idx| ∧ 2 ^ 29 < |q.last.get idx|
      ∧ vecFits (midDelta p fl) 10 = true := by
    rw [okFL, Bool.and_eq_true, gateFL_iff, vecFits_shiftedDelta, and_assoc]
  rw [← hshut, hcode]
  cases okLD p ld with
  | true => exact ⟨by simp, by simp, by simp, hopen⟩
  | false =>
    refine ⟨?_, ?_, ?_, hopen⟩
    all_goals cases okFL p q idx fl <;> decide

/-! ### quantize under either truncation (40_fixedpoint.md R126, R127) -/

/-- Under either truncation quantize is off by less than one and a half units of its last place. -/
theorem quantize_mul_bounds (t : Config.QuantTrunc) {N : Nat} (hN : N ≤ 29) (r : Int) :
    r - 3 * 2 ^ (29 - N) ≤ quantize t N r * 2 ^ (30 - N) ∧ quantize t N r * 2 ^ (30 - N) ≤ r + 3 * 2 ^ (29 - N) := by
  have hpos : (0 : Int) < 2 ^ (29 - N) := by positivity
  have hhalf : (2 : Int) ^ (30 - N) = 2 * 2 ^ (29 - N) := by
    rw [← pow_succ']
    congr 1
    omega
  cases t with
  | towardZero =>
    have hround := abs_le.mp (abs_roundHalfAway_sub_le r hpos)
    rw [← tdiv_add_sign_mul r hpos.le, ← hhalf] at hround
    simp only [quantize]
    constructor <;> linarith
  | floor =>
    have hdiv := Int.ediv_mul_add_emod (r + r.sign * 2 ^ (29 - N)) (2 ^ (30 - N))
    have hmod := Int.emod_nonneg (r + r.sign * 2 ^ (29 - N)) (by positivity : (2 : Int) ^ (30 - N) ≠ 0)
    have hmod' := Int.emod_lt_of_pos (r + r.sign * 2 ^ (29 - N)) (by positivity : (0 : Int) < 2 ^ (30 - N))
    have hsign : -2 ^ (29 - N) ≤ r.sign * 2 ^ (29 - N) ∧ r.sign * 2 ^ (29 - N) ≤ 2 ^ (29 - N) := by
      obtain h | h | h := Int.sign_trichotomy r <;> rw [h] <;> constructor <;> linarith
    simp only [quantize, sra]
    constructor <;> linarith

/-- The default truncation is off by at most half a unit of its last place. -/
theorem quantize_towardZero_bounds {N : Nat} (hN : N = 12 ∨ N = 15 ∨ N = 20) {r : Int} (hr : isI2F30 r) :
    r - 2 ^ (29 - N) ≤ quantize .towardZero N r * 2 ^ (30 - N)
    ∧ quantize .towardZero N r * 2 ^ (30 - N) ≤ r + 2 ^ (29 - N) := by
  have hround := abs_le.mp (quantizeRoundsHalfAwayFromZero N r hN hr).2
  constructor <;> linarith

/-! ### The quantized samples (42_modes.md R182, R183, R189) -/

/-- A retained component is an I2F30 value, also where its negation wraps (41_elision.md R162). -/
theorem toQuat3_get_isI2F30 (q : Quat Int) (i : Fin 4) (j : Fin 3) : isI2F30 ((toQuat3 q i).get j) := by
  rw [toQuat3_get]
  exact wrap32_range _

section
variable (p : Config.Params) (N : Nat) (q : Triplet (Quat Int)) (j : Fin 3)

/-- F[j] before packing. -/
theorem samplesAt_first : (samplesAt p N q).first.get j
    = quantize p.quantTrunc N ((toQuat3 q.first (sharedIdx q)).get j) := Vec3.get_map ..

/-- M[j] before packing. -/
theorem samplesAt_mid : (samplesAt p N q).mid.get j
    = quantize p.quantTrunc N ((toQuat3 q.mid (sharedIdx q)).get j) := Vec3.get_map ..

/-- L[j] before packing. -/
theorem samplesAt_last : (samplesAt p N q).last.get j
    = quantize p.quantTrunc N ((toQuat3 q.last (sharedIdx q)).get j) := Vec3.get_map ..

end

/-- Small enough that no sum or difference of a few of them leaves 32 bits. -/
def Small (v : Vec3 Int) : Prop := ∀ j : Fin 3, -2 ^ 22 ≤ v.get j ∧ v.get j ≤ 2 ^ 22

/-- A small value is an I2F30 value. -/
theorem Small.isI2F30 {v : Vec3 Int} (h : Small v) (j : Fin 3) : isI2F30 (v.get j) := by
  have hv := h j
  constructor <;> omega

/-- The samples of the delta modes are small, whatever the inputs. -/
theorem samplesAt_small (p : Config.Params) {N : Nat} (hN : N = 15 ∨ N = 20) (q : Triplet (Quat Int)) :
    Small (samplesAt p N q).first ∧ Small (samplesAt p N q).mid ∧ Small (samplesAt p N q).last := by
  have hquantize : ∀ r, isI2F30 r → -2 ^ 22 ≤ quantize p.quantTrunc N r ∧ quantize p.quantTrunc N r ≤ 2 ^ 22 := by
    rintro r ⟨hlow, hhigh⟩
    obtain ⟨hq, hq'⟩ := quantize_mul_bounds p.quantTrunc (N := N) (by omega) r
    obtain rfl | rfl := hN <;> constructor <;> omega
  refine ⟨fun j => ?_, fun j => ?_, fun j => ?_⟩
  · rw [samplesAt_first]
    exact hquantize _ (toQuat3_get_isI2F30 ..)
  · rw [samplesAt_mid]
    exact hquantize _ (toQuat3_get_isI2F30 ..)
  · rw [samplesAt_last]
    exact hquantize _ (toQuat3_get_isI2F30 ..)

/-! ### Retained components at unit norm (42_modes.md R197, R198; LOG 18) -/

section
variable {q : Quat Int} (hq : atMostUnit q)
include hq

/-- A component at unit norm is far from the 32-bit ends. -/
theorem get_range_of_atMostUnit (c : Fin 4) : -2 ^ 31 < q.get c ∧ q.get c < 2 ^ 31 := by
  have hle : q.get c ^ 2 ≤ normSq q := by
    rw [normSq_eq_sum]
    exact Finset.single_le_sum (f := fun c => q.get c ^ 2) (fun c _ => sq_nonneg _) (Finset.mem_univ c)
  exact abs_lt_of_sq_lt_sq' (by omega) (by decide)

/-- Twice a retained square is at most the norm: the missing component is the greatest (R163). -/
theorem two_mul_retained_sq_le (j : Fin 3) : 2 * (toQuat3 q (maxAbsIdx q)).get j ^ 2 ≤ normSq q := by
  obtain ⟨_, _, _, hretained⟩ := unitElisionBounds q (get_range_of_atMostUnit hq)
  obtain ⟨_, hpair, hnorm, _⟩ := hretained j
  exact hpair.trans hnorm

/-- A component retained at the max-abs index is at most 1/√2, about 2^29.5 raw. -/
theorem retained_bounds (j : Fin 3) :
    -759250307 < (toQuat3 q (maxAbsIdx q)).get j ∧ (toQuat3 q (maxAbsIdx q)).get j < 759250307 := by
  have hsq := two_mul_retained_sq_le hq j
  exact abs_lt_of_sq_lt_sq' (by omega) (by decide)

/-- A component retained beside a missing one above 1/2 is at most √3/2 (R198). -/
theorem retained_bounds_of_gate {i : Fin 4} (hgate : 2 ^ 29 < |q.get i|) (j : Fin 3) :
    -929887993 < (toQuat3 q i).get j ∧ (toQuat3 q i).get j < 929887993 := by
  have hpair := retained_sq_add_missing_sq_le q i j
  have hmissing : (2 ^ 29) ^ 2 < q.get i ^ 2 := sq_lt_sq.mpr hgate
  rw [← toQuat3_get_sq (get_range_of_atMostUnit hq)] at hpair
  exact abs_lt_of_sq_lt_sq' (by omega) (by decide)

end

/-- The shared missing index is the mid sample's own max-abs index (42_modes.md R181). -/
theorem retained_bounds_sharedIdx {q : Triplet (Quat Int)} (hq : atMostUnit q.mid) (j : Fin 3) :
    -759250307 < (toQuat3 q.mid (sharedIdx q)).get j ∧ (toQuat3 q.mid (sharedIdx q)).get j < 759250307 :=
  retained_bounds hq j

/-! ### What embeds without loss (40_fixedpoint.md R123, R124) -/

/-- A value in a field's range comes back from it. -/
theorem extract_embed {W : Nat} (hW : 1 ≤ W) {v : Int} (h : -2 ^ (W - 1) ≤ v ∧ v ≤ 2 ^ (W - 1) - 1) :
    extract (embed v W) = v :=
  BitVec.toInt_ofInt_eq_self hW h.1 (Int.lt_of_le_sub_one h.2)

/-- A vector that fits comes back from its fields. -/
theorem map_extract_embed {v : Vec3 Int} {W : Nat} (hW : 1 ≤ W) (hW' : W ≤ 32) (h : vecFits v W = true) :
    (v.map fun r => embed r W).map extract = v :=
  Vec3.ext_get fun j => by
    rw [Vec3.get_map, Vec3.get_map, extract_embed hW (bounds_of_vecFits hW hW' h j)]

/-! ### Mode 0 (42_modes.md R197, R202) -/

/-- Every component of a mode 0 sample fits its field at unit norm, under either truncation. -/
theorem vecFits_individual {q : Quat Int} (hq : atMostUnit q) (t : Config.QuantTrunc) :
    vecFits ((toQuat3 q (maxAbsIdx q)).map (quantize t 12)) 13 = true :=
  vecFits_of_bounds (by decide) (by decide) fun j => by
    have hv := retained_bounds hq j
    have hround := quantize_mul_bounds t (N := 12) (by decide) ((toQuat3 q (maxAbsIdx q)).get j)
    rw [Vec3.get_map]
    omega

/-- Settles O22. -/
theorem individualAlwaysFitsUnitInputs : Obligations.IndividualAlwaysFitsUnitInputs := by
  intro q j hq
  have hsq := two_mul_retained_sq_le hq j
  have hfits := bounds_of_vecFits (by decide) (by decide) (vecFits_individual hq .towardZero) j
  rw [Vec3.get_map] at hfits
  refine ⟨hsq, hsq.trans, abs_le.mpr ?_, extract_embed (by decide) hfits⟩
  have hv := retained_bounds hq j
  have hround := quantize_towardZero_bounds (.inl rfl) (toQuat3_get_isI2F30 q (maxAbsIdx q) j)
  omega

/-- Settles O28. -/
theorem roundTripIndividual : Obligations.RoundTripIndividual := fun p q hq =>
  ⟨rfl, map_extract_embed (by decide) (by decide) (vecFits_individual hq p.quantTrunc)⟩

/-! ### Differences undone modulo 2^32 (40_fixedpoint.md R129, R130) -/

/-- wrap32 answers the one I2F30 value in its argument's class modulo 2^32. -/
theorem wrap32_eq_of_dvd {v r : Int} (hr : isI2F30 r) (h : 2 ^ 32 ∣ v - r) : wrap32 v = r := by
  have hv := dvd_wrap32_sub v
  have hrange := wrap32_range v
  obtain ⟨hlow, hhigh⟩ := hr
  omega

/-- Adding back to a difference that has lost `e` gives the minuend less `e`. -/
theorem add_sub_loss {m : Int} (a e : Int) (h : isI2F30 (m - e)) : add (sub m a - e) a = m - e :=
  wrap32_eq_of_dvd h (by have hd := dvd_wrap32_sub (m - a); unfold sub; omega)

/-- Adding back to a difference gives the minuend. -/
theorem add_sub_self_of_isI2F30 {m : Int} (a : Int) (hm : isI2F30 m) : add (sub m a) a = m := by
  simpa using add_sub_loss a 0 (by simpa using hm)

/-- Subtracting a difference gives back the subtrahend. -/
theorem sub_sub_self_of_isI2F30 (l : Int) {f : Int} (hf : isI2F30 f) : sub l (sub l f) = f :=
  wrap32_eq_of_dvd hf (by have hd := dvd_wrap32_sub (l - f); unfold sub; omega)

section
variable (p : Config.Params) (x : Triplet (Vec3 Int)) (j : Fin 3)

/-- FD[j] (42_modes.md R184). -/
theorem firstDelta_get : (firstDelta x).get j = sub (x.last.get j) (x.first.get j) := Vec3.get_zipWith ..

/-- MD[j], or D[j] in mode 1 (42_modes.md R184, R189). -/
theorem midDelta_get :
    (midDelta p x).get j = sub (x.mid.get j) (avg p.avgMode (x.first.get j) (x.last.get j)) := by
  rw [midDelta, Vec3.get_zipWith, Vec3.get_zipWith]

end

/-! ### Mode 2 (42_modes.md R185 to R187, R198, R202) -/

/-- Where both deltas fit, L is within 2^11 + 2^6 of M. -/
theorem last_near_mid_of_okLD {p : Config.Params} {x : Triplet (Vec3 Int)} (hok : okLD p x = true)
    (hf : Small x.first) (hm : Small x.mid) (hl : Small x.last) (j : Fin 3) :
    x.mid.get j - 2112 ≤ x.last.get j ∧ x.last.get j ≤ x.mid.get j + 2112 := by
  obtain ⟨hfirst, hmid⟩ := Bool.and_eq_true_iff.mp hok
  have hfd := bounds_of_vecFits (by decide) (by decide) hfirst j
  have hmd := bounds_of_vecFits (by decide) (by decide) hmid j
  have hfj := hf j
  have hmj := hm j
  have hlj := hl j
  have havg := unwrappedAvg_bounds p.avgMode (x.first.get j + x.last.get j)
  rw [firstDelta_get, sub, wrap32_of_range _ (by omega) (by omega)] at hfd
  rw [midDelta_get, avg_eq_unwrapped _ (by omega) (by omega), sub, wrap32_of_range _ (by omega) (by omega)] at hmd
  omega

/-- Unpacking undoes packing where the deltas fit and L fits its field. -/
theorem samplesLD_packLD {p : Config.Params} {x : Triplet (Vec3 Int)} (idx : Fin 4) (hok : okLD p x = true)
    (hlast : vecFits x.last 21 = true) (hf : Small x.first) (hm : Small x.mid) :
    samplesLD p (packLD p idx x) = x := by
  obtain ⟨hfits, hfits'⟩ := Bool.and_eq_true_iff.mp hok
  have hl : (packLD p idx x).l.map extract = x.last := map_extract_embed (by decide) (by decide) hlast
  have hfd : (packLD p idx x).fd.map extract = firstDelta x := map_extract_embed (by decide) (by decide) hfits
  have hmd : (packLD p idx x).md.map extract = midDelta p x := map_extract_embed (by decide) (by decide) hfits'
  have hfirst : x.last.zipWith sub (firstDelta x) = x.first := Vec3.ext_get fun j => by
    rw [Vec3.get_zipWith, firstDelta_get]
    exact sub_sub_self_of_isI2F30 _ (hf.isI2F30 j)
  have hmid : (midDelta p x).zipWith add (x.first.zipWith (avg p.avgMode) x.last) = x.mid :=
    Vec3.ext_get fun j => by
      rw [Vec3.get_zipWith, Vec3.get_zipWith, midDelta_get]
      exact add_sub_self_of_isI2F30 _ (hm.isI2F30 j)
  simp only [samplesLD, hl, hfd, hmd, hfirst, hmid]

/-- Settles O26: L is near M, which unit norm bounds. -/
theorem roundTripLastDeltaFirstDeltaMid : Obligations.RoundTripLastDeltaFirstDeltaMid := by
  intro p q _ hunit _ hok
  obtain ⟨hf, hm, hl⟩ := samplesAt_small p (.inr rfl) q
  refine samplesLD_packLD _ hok (vecFits_of_bounds (by decide) (by decide) fun j => ?_) hf hm
  have hnear := last_near_mid_of_okLD hok hf hm hl j
  have hv := retained_bounds_sharedIdx hunit j
  have hround := quantize_mul_bounds p.quantTrunc (N := 20) (by decide) ((toQuat3 q.mid (sharedIdx q)).get j)
  rw [samplesAt_mid] at hnear
  omega

/-! ### Mode 1 (42_modes.md R190 to R193, R198, R202) -/

/-- A sample that passes the gate fits its field at unit norm, under either truncation. -/
theorem vecFits_of_gate {q : Quat Int} (hq : atMostUnit q) {i : Fin 4} (hgate : 2 ^ 29 < |q.get i|)
    (t : Config.QuantTrunc) : vecFits ((toQuat3 q i).map (quantize t 15)) 16 = true :=
  vecFits_of_bounds (by decide) (by decide) fun j => by
    have hv := retained_bounds_of_gate hq hgate j
    have hround := quantize_mul_bounds t (N := 15) (by decide) ((toQuat3 q i).get j)
    rw [Vec3.get_map]
    omega

/-- The decoder's delta is the encoder's, less its low two bits where SH is 1 (40_fixedpoint.md R134). -/
theorem unshift_shiftedDelta {d : Vec3 Int} (hd : ∀ j : Fin 3, isI2F30 (d.get j)) :
    (if BitVec.ofBool (shFlag d) = 1 then (shiftedDelta d).map unshift else shiftedDelta d)
      = d.map fun e => e - if shFlag d then e % 4 else 0 := by
  refine Vec3.ext_get fun j => ?_
  cases h : shFlag d with
  | true => simp [shiftedDelta, h, unshift_preshift (hd j)]
  | false => simp [shiftedDelta, h]

/-- Unpacking undoes packing where F, L and DS fit their fields, but for the low two bits of a pre-shifted delta. -/
theorem samplesFL_packFL {p : Config.Params} {x : Triplet (Vec3 Int)} (idx : Fin 4)
    (hfirst : vecFits x.first 16 = true) (hlast : vecFits x.last 16 = true)
    (hdelta : vecFits (shiftedDelta (midDelta p x)) 8 = true) (hm : Small x.mid) :
    samplesFL p (packFL p idx x) =
      { first := x.first
        mid := x.mid.zipWith (fun m e => if shFlag (midDelta p x) then m - e % 4 else m) (midDelta p x)
        last := x.last } := by
  have hf : (packFL p idx x).f.map extract = x.first := map_extract_embed (by decide) (by decide) hfirst
  have hl : (packFL p idx x).l.map extract = x.last := map_extract_embed (by decide) (by decide) hlast
  have hd : (packFL p idx x).d.map extract = shiftedDelta (midDelta p x) :=
    map_extract_embed (by decide) (by decide) hdelta
  have hsh : (packFL p idx x).sh = BitVec.ofBool (shFlag (midDelta p x)) := rfl
  have hrange : ∀ j : Fin 3, isI2F30 ((midDelta p x).get j) := fun j => by
    rw [midDelta_get]
    exact wrap32_range _
  have hmid : ((midDelta p x).map fun e => e - if shFlag (midDelta p x) then e % 4 else 0).zipWith add
        (x.first.zipWith (avg p.avgMode) x.last)
      = x.mid.zipWith (fun m e => if shFlag (midDelta p x) then m - e % 4 else m) (midDelta p x) :=
    Vec3.ext_get fun j => by
      have hmj := hm j
      rw [Vec3.get_zipWith, Vec3.get_zipWith, Vec3.get_zipWith, Vec3.get_map]
      cases shFlag (midDelta p x) with
      | true =>
        rw [if_pos rfl, if_pos rfl, midDelta_get]
        exact add_sub_loss _ _ ⟨by omega, by omega⟩
      | false =>
        rw [if_neg (by decide), if_neg (by decide), sub_zero, midDelta_get]
        exact add_sub_self_of_isI2F30 _ (hm.isI2F30 j)
  simp only [samplesFL, hf, hl, hd, hsh, unshift_shiftedDelta hrange, hmid]

/-- Settles O27: the gate and unit norm bound F and L. -/
theorem roundTripFirstLastDeltaMid : Obligations.RoundTripFirstLastDeltaMid := by
  intro p q hfirst _ hlast hok
  obtain ⟨hgate, hdelta⟩ := Bool.and_eq_true_iff.mp hok
  obtain ⟨hgateF, hgateL⟩ := (gateFL_iff q _).mp hgate
  obtain ⟨_, hm, _⟩ := samplesAt_small p (.inl rfl) q
  exact samplesFL_packFL _ (vecFits_of_gate hfirst hgateF _) (vecFits_of_gate hlast hgateL _) hdelta hm

/-! ### Bounds under the default truncation (42_modes.md R198) -/

/-- A sample that passes the gate, at unit norm and 15 fractional bits: √3/2, rounded. -/
theorem abs_quantize_le_of_gate {q : Quat Int} (hq : atMostUnit q) {i : Fin 4} (hgate : 2 ^ 29 < |q.get i|)
    (j : Fin 3) : |quantize .towardZero 15 ((toQuat3 q i).get j)| ≤ 28378 := by
  have hv := retained_bounds_of_gate hq hgate j
  have hround := quantize_towardZero_bounds (.inr (.inl rfl)) (toQuat3_get_isI2F30 q i j)
  rw [abs_le]
  omega

/-- Settles O23: L is near M, and the gate bounds F and L. -/
theorem unitFieldsStayInsideTheirWidths : Obligations.UnitFieldsStayInsideTheirWidths := by
  intro p q j ht _ _ _
  refine ⟨fun hunit hok => abs_lt.mpr ?_, fun hfirst hlast hgate => ?_⟩
  · obtain ⟨hf, hm, hl⟩ := samplesAt_small p (.inr rfl) q
    have hnear := last_near_mid_of_okLD hok hf hm hl j
    have hv := retained_bounds_sharedIdx hunit j
    have hround := quantize_towardZero_bounds (.inr (.inr rfl)) (toQuat3_get_isI2F30 q.mid (sharedIdx q) j)
    rw [samplesAt_mid, ht] at hnear
    omega
  · obtain ⟨hgateF, hgateL⟩ := (gateFL_iff q _).mp hgate
    rw [samplesAt_first, samplesAt_last, ht]
    exact ⟨abs_quantize_le_of_gate hfirst hgateF j, abs_quantize_le_of_gate hlast hgateL j⟩

end Sys2Proof.Machine
end

section
/-! PROOFS. The statements of 43_commands.md: what ENC_FRAME makes decodes to (O25), slack bits (O29), the four
commands (O30 to O34), the completions (O38, O42, O43, O45), the step that runs an instruction (O41) and HOST reads
(O54). -/

namespace Sys2Proof

/-! ### A payload is its fields (30_encoding.md R87 to R89) -/

/-- A triplet is its three samples. -/
theorem Triplet.ext_get {α : Type} {a b : Triplet α} (h : ∀ s : Fin 3, a.get s = b.get s) : a = b := by
  cases a
  cases b
  exact (Triplet.mk.injEq ..).mpr ⟨h 0, h 1, h 2⟩

/-- A mode 0 payload has no part beside its fields (R87). -/
theorem IndPayload.ext_get {a b : IndPayload} (h : ∀ f : IndField, a.get f = b.get f) : a = b :=
  congrArg IndPayload.mk <| Triplet.ext_get fun s =>
    congrArg₂ IndSample.mk (h (.idx s)) (Vec3.ext_get fun j => h (.c s j))

/-- A mode 1 payload has no part beside its fields (R88). -/
theorem FLPayload.ext_get {a b : FLPayload} (h : ∀ f : FLField, a.get f = b.get f) : a = b := by
  cases a
  cases b
  exact (FLPayload.mk.injEq ..).mpr ⟨h .idx, Vec3.ext_get fun j => h (.f j), Vec3.ext_get fun j => h (.l j),
    h .sh, Vec3.ext_get fun j => h (.d j)⟩

/-- A mode 2 payload has no part beside its fields (R89). -/
theorem LDPayload.ext_get {a b : LDPayload} (h : ∀ f : LDField, a.get f = b.get f) : a = b := by
  cases a
  cases b
  exact (LDPayload.mk.injEq ..).mpr ⟨h .idx, Vec3.ext_get fun j => h (.l j), Vec3.ext_get fun j => h (.fd j),
    Vec3.ext_get fun j => h (.md j)⟩

/-! ### A built frame decodes to what it was built of (43_commands.md R230, R231, R242) -/

/-- Bits above the timestamp that the payload leaves alone keep the 0 the frame began with (R230). -/
theorem buildFrame_above (m : Mode) (payload : Frame → Frame) (ts : TimeStamp) (o w : Nat)
    (h : tsOffset m + 17 ≤ o) (hpayload : ∀ fr, fieldRead (payload fr) o w = fieldRead fr o w) :
    fieldRead (buildFrame m payload ts) o w = 0 := by
  have hts : 2 ≤ tsOffset m := Nat.le_add_right ..
  have hzero : fieldRead 0#144 o w = 0 := by simp [fieldRead]
  unfold buildFrame
  rw [fieldRead_fieldWrite_disjoint _ _ _ _ _ (.inr (by omega)),
    fieldRead_fieldWrite_disjoint _ _ _ _ _ (.inr (by omega)), hpayload,
    fieldRead_fieldWrite_disjoint _ _ _ _ _ (.inr (by omega)), hzero]

section
variable {lay : Config.Layout}

/-- The slack bits of a mode 0 frame are written 0 (30_encoding.md R86). -/
theorem buildInd_slack (h : layoutOk lay = true) (p : IndPayload) (ts : TimeStamp) :
    fieldRead (buildInd lay p ts) slackOffset 2 = 0 :=
  buildFrame_above _ _ _ _ _ (by decide) fun _ =>
    writeFields_above _ _ _ _ _ _ _ (by rw [ind_totalWidth h]; decide)

/-- The slack bits of a mode 1 frame are written 0 (30_encoding.md R86). -/
theorem buildFL_slack (h : layoutOk lay = true) (p : FLPayload) (ts : TimeStamp) :
    fieldRead (buildFL lay p ts) slackOffset 2 = 0 :=
  buildFrame_above _ _ _ _ _ (by decide) fun _ =>
    writeFields_above _ _ _ _ _ _ _ (by rw [fl_totalWidth h]; decide)

/-- A mode 0 frame decodes to its payload and timestamp. -/
theorem decodeFrame_buildInd (h : layoutOk lay = true) (p : IndPayload) (ts : TimeStamp) :
    decodeFrame lay (buildInd lay p ts) = .frameIndividual p ts 0 := by
  have hpayload : readInd lay (buildInd lay p ts) = p :=
    IndPayload.ext_get fun f => (readInd_get ..).trans (buildInd_field h p ts f)
  have hts : readTs (buildInd lay p ts) .individual = ts := buildFrame_readTs _ _ _ (by decide)
  rw [decodeFrame_of_code_zero (buildInd_selector lay p ts), hpayload, hts, buildInd_slack h]

/-- A mode 1 frame decodes to its payload and timestamp. -/
theorem decodeFrame_buildFL (h : layoutOk lay = true) (p : FLPayload) (ts : TimeStamp) :
    decodeFrame lay (buildFL lay p ts) = .frameFirstLastDeltaMid p ts 0 := by
  have hpayload : readFL lay (buildFL lay p ts) = p :=
    FLPayload.ext_get fun f => (readFL_get ..).trans (buildFL_field h p ts f)
  have hts : readTs (buildFL lay p ts) .firstLastDeltaMid = ts := buildFrame_readTs _ _ _ (by decide)
  rw [decodeFrame_of_code_one (buildFL_selector lay p ts), hpayload, hts, buildFL_slack h]

/-- A mode 2 frame decodes to its payload and timestamp. -/
theorem decodeFrame_buildLD (h : layoutOk lay = true) (p : LDPayload) (ts : TimeStamp) :
    decodeFrame lay (buildLD lay p ts) = .frameLastDeltaFirstDeltaMid p ts := by
  have hpayload : readLD lay (buildLD lay p ts) = p :=
    LDPayload.ext_get fun f => (readLD_get ..).trans (buildLD_field h p ts f)
  have hts : readTs (buildLD lay p ts) .lastDeltaFirstDeltaMid = ts := buildFrame_readTs _ _ _ (by decide)
  rw [decodeFrame_of_code_two (buildLD_selector lay p ts), hpayload, hts]

/-! ### Frames that agree below the slack bits (43_commands.md R233) -/

/-- A field below the slack bits reads alike in frames that agree there (R233, 20_memory.md R61). -/
theorem fieldRead_congr_below_slack {fr fr' : Frame} (h : ∀ k : Nat, k < slackOffset → fr.getLsbD k = fr'.getLsbD k)
    {o w : Nat} (hend : o + w ≤ slackOffset) : fieldRead fr o w = fieldRead fr' o w := by
  apply BitVec.eq_of_getLsbD_eq
  intro k hk
  rw [fieldRead_getLsbD, fieldRead_getLsbD, h (o + k) (by omega)]

variable {fr fr' : Frame} (hagree : ∀ k : Nat, k < slackOffset → fr.getLsbD k = fr'.getLsbD k)
include hagree

/-- The timestamp of mode 0 or 1 stands below the slack bits (30_encoding.md R85, R86). -/
theorem readTs_congr_below_slack {m : Mode} (hm : tsOffset m + 17 ≤ slackOffset) : readTs fr m = readTs fr' m :=
  congrArg₂ TimeStamp.mk (fieldRead_congr_below_slack hagree (by omega))
    (fieldRead_congr_below_slack hagree (by omega))

/-- The payload of mode 0 stands below the slack bits (30_encoding.md R84, R86). -/
theorem readInd_congr_below_slack (h : layoutOk lay = true) : readInd lay fr = readInd lay fr' := by
  obtain ⟨_, hbounds, _⟩ := legalLayoutsKeepFieldsApart lay h
  refine IndPayload.ext_get fun f => ?_
  have hend : indOffset lay f + f.width ≤ slackOffset := (hbounds f).2.trans (by decide)
  rw [readInd_get, readInd_get, fieldRead_congr_below_slack hagree hend]

/-- The payload of mode 1 stands below the slack bits (30_encoding.md R84, R86). -/
theorem readFL_congr_below_slack (h : layoutOk lay = true) : readFL lay fr = readFL lay fr' := by
  obtain ⟨_, _, _, hbounds, _⟩ := legalLayoutsKeepFieldsApart lay h
  refine FLPayload.ext_get fun f => ?_
  have hend : flOffset lay f + f.width ≤ slackOffset := (hbounds f).2.trans (by decide)
  rw [readFL_get, readFL_get, fieldRead_congr_below_slack hagree hend]

end

/-- Mode code 3 (30_encoding.md R83). -/
theorem decodeFrame_of_code_three {lay : Config.Layout} {fr : Frame} (h : fieldRead fr 0 2 = 3) :
    decodeFrame lay fr = .frameUnknown (fieldRead fr 2 142) := by
  rw [decodeFrame, h]
  rfl

end Sys2Proof

namespace Sys2Proof.Machine

/-! ### Decoding (43_commands.md R230 to R233) -/

/-- Settles O25: each of the three frames ENC_FRAME builds decodes to what it was built of. -/
theorem encodedFrameDecodesToItsFields : Obligations.EncodedFrameDecodesToItsFields := by
  intro p q ts h
  unfold encFrame
  cases selectMode p q with
  | lastDeltaFirstDeltaMid => exact decodeFrame_buildLD h _ ts
  | firstLastDeltaMid => exact decodeFrame_buildFL h _ ts
  | individual | unknown => exact decodeFrame_buildInd h _ ts

/-- No meaning reads the slack bits of mode 0 (R233). -/
theorem exec_frameIndividual_slack (p : IndPayload) (ts : TimeStamp) (k k' : BitVec 2) (s : State) :
    exec (.frameIndividual p ts k) s = exec (.frameIndividual p ts k') s := rfl

/-- No meaning reads the slack bits of mode 1 (R233). -/
theorem exec_frameFirstLastDeltaMid_slack (p : FLPayload) (ts : TimeStamp) (k k' : BitVec 2) (s : State) :
    exec (.frameFirstLastDeltaMid p ts k) s = exec (.frameFirstLastDeltaMid p ts k') s := rfl

/-- Settles O29: the two frames decode to instructions that differ in the slack bits at most, which no meaning
reads. -/
theorem slackBitsNeverAffectADecode : Obligations.SlackBitsNeverAffectADecode := by
  intro lay fr fr' s h hcode hagree
  have hselector : fieldRead fr 0 2 = fieldRead fr' 0 2 := fieldRead_congr_below_slack hagree (by decide)
  obtain hzero | hone := hcode
  · rw [decodeFrame_of_code_zero hzero, decodeFrame_of_code_zero (hselector ▸ hzero),
      readInd_congr_below_slack hagree h, readTs_congr_below_slack hagree (by decide)]
    exact exec_frameIndividual_slack ..
  · rw [decodeFrame_of_code_one hone, decodeFrame_of_code_one (hselector ▸ hone),
      readFL_congr_below_slack hagree h, readTs_congr_below_slack hagree (by decide)]
    exact exec_frameFirstLastDeltaMid_slack ..

/-- Settles O38: the meaning of an unknown frame is the failure, which reads nothing of the frame. -/
theorem unknownFrameFailsWhateverItsOtherBits : Obligations.UnknownFrameFailsWhateverItsOtherBits := by
  intro lay s failed
  have hexec (rest : BitVec 142) : exec (.frameUnknown rest) s = .next failed := rfl
  exact ⟨hexec, fun fr h => decodeFrame_of_code_three (lay := lay) h ▸ hexec _⟩

/-! ### The four commands (43_commands.md R234, R237, R238, R240) -/

/-- Settles O30: NOP is the HOST's write moved past. -/
theorem nopChangesNothing : Obligations.NopChangesNothing := fun _ _ => rfl

/-- With BUSY = 0 a command is accepted (R234). -/
theorem issue_of_idle (op : Op) {s : State} (h : s.status.busy = false) : issue op s = accept op s := by
  obtain ⟨hbusy, _⟩ | ⟨_, haccept⟩ := issue_cases op s
  · simp [h] at hbusy
  · exact haccept

/-- With BUSY = 1 a command is dropped with CmdErr (R240). -/
theorem issue_of_busy (op : Op) {s : State} (h : s.status.busy = true) : issue op s = raiseCmdErr s := by
  obtain ⟨_, hdrop⟩ | ⟨hidle, _⟩ := issue_cases op s
  · exact hdrop
  · simp [h] at hidle

/-- Settles O31: the snapshot of an accepted ENCODE is QIN and TSIN. -/
theorem encodeIsAcceptedWhenIdle : Obligations.EncodeIsAcceptedWhenIdle := fun _ _ hidle =>
  congrArg (Host.Outcome.next <| advanceHost ·) (issue_of_idle .encode hidle)

/-- Settles O32: the snapshot of an accepted DECODE is FRAME_IN. -/
theorem decodeIsAcceptedWhenIdle : Obligations.DecodeIsAcceptedWhenIdle := fun _ _ hidle =>
  congrArg (Host.Outcome.next <| advanceHost ·) (issue_of_idle .decode hidle)

/-- CMDERR set, and the HOST's program at another place: what a command that is not accepted leaves different for the
ENGINE (R238, R240). -/
def withCmdErr (prog : List HostOp) (s : State) : State := { raiseCmdErr s with prog := prog }

/-- An ENGINE turn reads neither CMDERR nor the HOST's program, and writes neither (R238, R240). -/
theorem step_engine_withCmdErr {s : State} (prog : List HostOp) (hturn : currentTurn s = .engine) :
    ∃ c, step s = .next c ∧ step (withCmdErr prog s) = .next (withCmdErr prog c) := by
  have hturn' : currentTurn (withCmdErr prog s) = .engine := hturn
  cases hp : s.pending with
  | none => exact ⟨_, step_engine_none hturn hp, step_engine_none hturn' hp⟩
  | some p =>
    cases p with
    | encode q ts => exact ⟨_, step_engine_encode hturn hp, step_engine_encode hturn' hp⟩
    | decode fr =>
      rw [step_engine_decode hturn hp, step_engine_decode hturn' hp]
      obtain ⟨m, q, ts, hexec⟩ | hexec := exec_decodeFrame_result s.params.layout fr s.params
      · exact ⟨_, hexec s rfl, hexec (withCmdErr prog s) rfl⟩
      · exact ⟨_, hexec s, hexec (withCmdErr prog s)⟩

/-- Settles O33: both commands are dropped with CmdErr, which the ENGINE's turn does not read. -/
theorem commandWhileBusyIsDropped : Obligations.CommandWhileBusyIsDropped := by
  intro r s hbusy dropped unwritten
  have hdrop (op : Op) : advanceHost (issue op s) = dropped := congrArg advanceHost (issue_of_busy op hbusy)
  exact ⟨congrArg _ (hdrop .encode), congrArg _ (hdrop .decode), step_engine_withCmdErr s.prog.tail⟩

/-- Settles O34: the meaning is CmdErr alone, which the ENGINE's turn does not read. -/
theorem reservedOpSetsCmdErrOnly : Obligations.ReservedOpSetsCmdErrOnly := fun _ s =>
  ⟨rfl, step_engine_withCmdErr s.prog.tail⟩

/-- Settles O41: index 0 of the window is CMD, so the write reaches it. -/
theorem stepRunsTheDecodedInstruction : Obligations.StepRunsTheDecodedInstruction :=
  ⟨fun s _ _ hbase hturn hprog => step_host_command hturn hprog (busReg_at s.params 0 (by decide) hbase),
    fun _ _ hturn hpending => step_engine_decode hturn hpending⟩

/-! ### The completion of an ENCODE (43_commands.md R235, R239) -/

/-- The whole next state of an ENCODE, one field at a time; its MODE is the code in FRAME_OUT, never 3
(R235, R239). -/
theorem exists_mode_completeEncode_eq (q : Triplet (Quat Word)) (ts : TimeStamp) (s : State) :
    ∃ m : Mode, m ≠ .unknown ∧ m.code = fieldRead (encFrame s.params (q.map quatOfWords) ts) 0 2 ∧
      completeEncode q ts s = { s with
        frameOut := encFrame s.params (q.map quatOfWords) ts
        status := { busy := false, done := true, decFail := s.status.decFail, cmdErr := s.status.cmdErr, mode := m }
        pending := none
        turns := s.turns.tail } :=
  ⟨_, fun h => encFrame_selector_ne_three _ _ _ ((ofCode_eq_unknown_iff _).mp h), code_ofCode _, rfl⟩

/-- Settles O42: the ENGINE's turn is that completion. -/
theorem engineCompletesEncode : Obligations.EngineCompletesEncode := by
  intro s q ts hturn hpending fr
  obtain ⟨m, hm, hcode, hnext⟩ := exists_mode_completeEncode_eq q ts s
  exact ⟨m, hm, hcode, (step_engine_encode hturn hpending).trans (congrArg _ hnext)⟩

/-- Settles O43: the first step accepts the ENCODE, the second completes it. -/
theorem encodeRunsToItsFrame : Obligations.EncodeRunsToItsFrame := by
  intro s w prog turns hbase hidle hop hprog hturns fr
  have hissue : step s = .next (advanceHost (accept .encode s)) := by
    rw [step_host_command (by simp [currentTurn, hturns]) hprog (busReg_at s.params 0 (by decide) hbase),
      exec_decodeCmd_issue (op := .encode) s hop, issue_of_idle .encode hidle]
  have hcomplete : step (advanceHost (accept .encode s)) = .next _ :=
    step_engine_encode (by simp [currentTurn, hturns]) rfl
  obtain ⟨m, hm, hcode, hnext⟩ := exists_mode_completeEncode_eq s.qin s.tsin (advanceHost (accept .encode s))
  refine ⟨m, hm, hcode, ?_⟩
  obtain rfl : s.prog.tail = prog := by rw [hprog, List.tail_cons]
  obtain rfl : s.turns.tail.tail = turns := by rw [hturns, List.tail_cons, List.tail_cons]
  exact (run_succ_of_step 1 hissue).trans ((run_succ_of_step 0 hcomplete).trans (congrArg _ hnext))

/-! ### Determinism (43_commands.md R241) -/

/-- Settles O45: a completion writes what its snapshot and the parameters give. -/
theorem resultsAreIndependentOfHistory : Obligations.ResultsAreIndependentOfHistory := by
  intro s s' t t' hparams hpending hsome hturn hturn' hstep hstep'
  obtain ⟨p, hp⟩ := Option.ne_none_iff_exists'.mp hsome
  have hp' : s'.pending = some p := hpending ▸ hp
  cases p with
  | encode q ts =>
    cases (step_engine_encode hturn hp).symm.trans hstep
    cases (step_engine_encode hturn' hp').symm.trans hstep'
    simp [completeEncode, hparams, hp]
  | decode fr =>
    rw [step_engine_decode hturn hp] at hstep
    rw [step_engine_decode hturn' hp', ← hparams] at hstep'
    obtain ⟨m, q, ts, hexec⟩ | hexec := exec_decodeFrame_result s.params.layout fr s.params
    · cases (hexec s rfl).symm.trans hstep
      cases (hexec s' hparams.symm).symm.trans hstep'
      simp [completeDecode, hp]
    · cases (hexec s).symm.trans hstep
      cases (hexec s').symm.trans hstep'
      simp [completeFail, hp]

/-! ### HOST reads (43_commands.md R243, 70_reset_and_hazards.md R294) -/

/-- Settles O54: the value read is the register's, or a draw. -/
theorem hostReadReturnsTheRegister : Obligations.HostReadReturnsTheRegister := by
  intro s n rest hlt hbase hturn hprog
  refine ⟨(hostRead (regOfIndex n) s).rdata, (hostRead (regOfIndex n) s).draws, ?_, ?_⟩
  · rw [step_host_read hturn hprog (busReg_at s.params n hlt hbase), hostRead_eq]
    simp [advanceHost, hprog]
  · split
    · next hdrawn => exact hostRead_of_drawn hdrawn.1 hdrawn.2
    · next hheld =>
      rw [hostRead_of_held hheld]
      exact ⟨rfl, rfl⟩

end Sys2Proof.Machine
end

section
/-! PROOFS. The statements of 70_reset_and_hazards.md: what reset leaves (O47, O52), and the completion of every
accepted command (O57). -/

namespace Sys2Proof.Machine

/-! ### Reset (70_reset_and_hazards.md R290, R291) -/

/-- Settles O47: reset establishes the invariant. -/
theorem controlInvariantAtReset : Obligations.ControlInvariantAtReset :=
  controlOk_resetBlock State.reset

/-- STATUS reads 0 when all its fields are 0 (10_state.md R24). -/
theorem statusWord_resetStatus : statusWord resetStatus = 0 := by decide

/-- The timestamp 0 reads 0 (10_state.md R31). -/
theorem tsWord_zeroTs : tsWord zeroTs = 0 := by decide

/-- Every register of a zero file reads 0. -/
theorem regGet_zeroQuats (k : Fin 12) : regGet zeroQuats k = 0 := by
  fin_cases k <;> rfl

/-- Every word of the zero frame reads 0 (10_state.md R36). -/
theorem frameWord_zero (j : Fin 5) : frameWord 0 j = 0 := by
  simp [frameWord]

/-- After reset every register reads 0 (R290). -/
theorem readReg_resetBlock (r : Reg) (s : State) : readReg r (resetBlock s) = 0 := by
  cases r with
  | qin k => exact regGet_zeroQuats k
  | qout k => exact regGet_zeroQuats k
  | frameIn j => exact frameWord_zero j
  | frameOut j => exact frameWord_zero j
  | status => exact statusWord_resetStatus
  | tsin | tsout => exact tsWord_zeroTs
  | cmd | reserved => rfl

/-- The state right after reset is one that reset leaves as it is (R290). -/
theorem resetBlock_reset : resetBlock State.reset = State.reset := rfl

/-- Settles O52: the reset turn clears the block and moves on in the schedule. -/
theorem resetClearsTheBlockFromAnyState : Obligations.ResetClearsTheBlockFromAnyState := by
  refine ⟨fun s hturn => ⟨_, step_reset hturn, fun n _ => ?_, rfl, rfl, rfl, rfl, rfl, rfl⟩, fun n _ => ?_, rfl⟩
  · rw [(advanceTurn_sameBlock _).readReg_eq, readReg_resetBlock]
  · rw [← resetBlock_reset, readReg_resetBlock]

/-! ### A step and the schedule (43_commands.md R243; LOG 1) -/

@[simp] theorem hostRead_prog (r : Reg) (s : State) : (hostRead r s).prog = s.prog := by
  rw [hostRead_eq]
@[simp] theorem hostRead_turns (r : Reg) (s : State) : (hostRead r s).turns = s.turns := by
  rw [hostRead_eq]

@[simp] theorem issue_prog (op : Op) (s : State) : (issue op s).prog = s.prog := by
  obtain ⟨_, h⟩ | ⟨_, h⟩ := issue_cases op s <;> rw [h] <;> rfl
@[simp] theorem issue_turns (op : Op) (s : State) : (issue op s).turns = s.turns := by
  obtain ⟨_, h⟩ | ⟨_, h⟩ := issue_cases op s <;> rw [h] <;> rfl

/-- One turn of the schedule is used up, and what is left of the HOST's program is an end of it. -/
structure MovesOn (s t : State) : Prop where
  turns : t.turns = s.turns.tail
  prog : t.prog <:+ s.prog

/-- A turn that leaves the HOST where it was moves on. -/
theorem MovesOn.of_advanceTurn {s u : State} (hturns : u.turns = s.turns) (hprog : u.prog = s.prog) :
    MovesOn s (advanceTurn u) :=
  ⟨congrArg List.tail hturns, hprog ▸ List.suffix_rfl⟩

/-- A turn that carries out a HOST operation moves on. -/
theorem MovesOn.of_advanceHost {s u : State} (hturns : u.turns = s.turns) (hprog : u.prog = s.prog) :
    MovesOn s (advanceHost u) :=
  ⟨congrArg List.tail hturns, hprog ▸ List.tail_suffix u.prog⟩

/-- A HOST turn carries out its operation, waits in a POLL, or is idle. -/
theorem HostTurn.movesOn {s t : State} (h : HostTurn s t) : MovesOn s t := by
  cases h with
  | idle => exact .of_advanceTurn rfl rfl
  | read _ _ _ r => exact .of_advanceHost (hostRead_turns r s) (hostRead_prog r s)
  | write _ _ v _ r => exact .of_advanceHost (writeReg_turns r v s) (writeReg_prog r v s)
  | command _ _ w _ _ _ _ hexec =>
    obtain ⟨_, e⟩ | ⟨_, e⟩ | ⟨_, e⟩ | ⟨_, e⟩ := exec_decodeCmd_cases w s <;> cases e.symm.trans hexec
    · exact .of_advanceHost rfl rfl
    · exact .of_advanceHost (issue_turns .encode s) (issue_prog .encode s)
    · exact .of_advanceHost (issue_turns .decode s) (issue_prog .decode s)
    · exact .of_advanceHost rfl rfl
  | poll _ mask value _ r =>
    simp only [pollOnce]
    split
    · exact .of_advanceHost (hostRead_turns r s) (hostRead_prog r s)
    · exact .of_advanceTurn (hostRead_turns r s) (hostRead_prog r s)

/-- An ENGINE turn leaves the HOST alone. -/
theorem EngineTurn.movesOn {s t : State} (h : EngineTurn s t) : MovesOn s t := by
  cases h with
  | idle => exact .of_advanceTurn rfl rfl
  | encode => exact .of_advanceTurn rfl rfl
  | decode fr _ _ hexec =>
    obtain ⟨_, _, _, _, _, e⟩ | ⟨_, e⟩ := exec_decodeFrame_cases s.params.layout fr s <;>
      cases e.symm.trans hexec <;> exact .of_advanceTurn rfl rfl

/-- Every step that answers a next state moves on. -/
theorem movesOn_of_step {s t : State} (h : step s = .next t) : MovesOn s t := by
  obtain ⟨_, rfl⟩ | ⟨_, hengine⟩ | ⟨_, hhost⟩ := step_cases h
  · exact .of_advanceTurn rfl rfl
  · exact hengine.movesOn
  · exact hhost.movesOn

/-- A program inside the contract stays inside it: no step adds an operation or moves BASE. -/
theorem programOk_of_step {s t : State} (hs : programOk s) (h : step s = .next t) : programOk t := by
  intro op hop
  rw [parametersNeverChange s t h]
  exact hs op ((movesOn_of_step h).prog.subset hop)

/-! ### A command in flight (43_commands.md R239, R240; 70_reset_and_hazards.md R297) -/

/-- The turn at the head of the schedule is the one taken. -/
theorem currentTurn_of_cons {s : State} {turn : Turn} {rest : List Turn} (h : s.turns = turn :: rest) :
    currentTurn s = turn := by
  simp only [currentTurn, h]

/-- With the schedule used up the ENGINE acts on what is pending (LOG 2). -/
theorem currentTurn_of_nil {s : State} {p : Pending} (h : s.turns = []) (hp : s.pending = some p) :
    currentTurn s = .engine := by
  simp [currentTurn, h, hp]

/-- A HOST turn of a program inside the contract is carried out. -/
theorem step_next_of_host {s : State} (hturn : currentTurn s = .host) (hprog : programOk s) :
    ∃ t, step s = .next t := by
  cases hp : s.prog with
  | nil => exact ⟨_, step_host_idle hturn hp⟩
  | cons op rest => exact step_next_of_inContract hturn hp (hprog op (hp ▸ List.mem_cons_self))

/-- The HOST does not reach a command in flight: one it issues meanwhile is dropped (R240). -/
theorem pending_of_host_step {s t : State} (hturn : currentTurn s = .host) (hbusy : s.status.busy = true)
    (h : step s = .next t) : t.pending = s.pending := by
  cases blockEvent_of_step h with
  | quiet h => exact h.pending
  | stored r v _ h => exact h.pending.trans (writeReg_pending r v s)
  | cmdErr _ _ _ h => exact h.pending
  | accepted _ _ _ _ hidle _ => simp [hidle] at hbusy
  | reset hreset _ => simp [hturn] at hreset
  | encoded _ _ hengine _ _ => simp [hturn] at hengine
  | decoded _ _ _ _ hengine _ _ _ _ => simp [hturn] at hengine
  | failed _ hengine _ _ _ => simp [hturn] at hengine

/-- The ENGINE's turn completes what is pending (R239). -/
theorem step_engine_completes {s : State} {p : Pending} (hturn : currentTurn s = .engine)
    (hp : s.pending = some p) : ∃ t, step s = .next t ∧ Completed s t := by
  cases p with
  | encode q ts => exact ⟨_, step_engine_encode hturn hp, completeEncode_completed q ts s⟩
  | decode fr =>
    rw [step_engine_decode hturn hp]
    obtain ⟨m, q, ts, _, _, e⟩ | ⟨_, e⟩ := exec_decodeFrame_cases s.params.layout fr s
    · exact ⟨_, e, completeDecode_completed m q ts s⟩
    · exact ⟨_, e, completeFail_completed s⟩

/-- The command in flight ends within `n` steps, by completion when the schedule holds no reset (R291, R297). -/
def EndsWithin (n : Nat) (s : State) : Prop :=
  ∃ k : Nat, k ≤ n ∧ ∃ t, Sys2Proof.core.run k s = .next t
    ∧ t.status.busy = false ∧ t.pending = none ∧ (Turn.reset ∉ s.turns → t.status.done = true)

/-- A completion by the next step ends the command. -/
theorem endsWithin_of_engine {s : State} {p : Pending} (n : Nat) (hturn : currentTurn s = .engine)
    (hp : s.pending = some p) : EndsWithin (n + 1) s := by
  obtain ⟨t, hstep, hdone⟩ := step_engine_completes hturn hp
  exact ⟨1, by omega, t, run_succ_of_step 0 hstep, hdone.busy, hdone.pending, fun _ => hdone.done⟩

/-- A reset by the next step aborts the command (R291). -/
theorem endsWithin_of_reset {s : State} {rest : List Turn} (n : Nat) (hturns : s.turns = .reset :: rest) :
    EndsWithin (n + 1) s := by
  have hstep := step_reset (currentTurn_of_cons hturns)
  exact ⟨1, by omega, _, run_succ_of_step 0 hstep, rfl, rfl, fun h => by simp [hturns] at h⟩

/-- What ends a command after a step ends it one step later from before it. -/
theorem EndsWithin.of_step {s t : State} {n : Nat} (h : step s = .next t) (ht : EndsWithin n t) :
    EndsWithin (n + 1) s := by
  obtain ⟨k, hk, u, hrun, hbusy, hpending, hdone⟩ := ht
  refine ⟨k + 1, by omega, u, (run_succ_of_step k h).trans hrun, hbusy, hpending, fun hs => hdone fun ht => hs ?_⟩
  rw [(movesOn_of_step h).turns] at ht
  exact List.mem_of_mem_tail ht

/-- A command in flight ends within the turns left and one more: each HOST turn leaves it in flight with a shorter
schedule, and every other turn ends it. -/
theorem endsWithin_of_pending {s : State} {p : Pending} (hs : controlOk s) (hprog : programOk s)
    (hp : s.pending = some p) : EndsWithin (s.turns.length + 1) s := by
  induction hturns : s.turns generalizing s with
  | nil => exact endsWithin_of_engine 0 (currentTurn_of_nil hturns hp) hp
  | cons turn rest ih =>
    have hturn := currentTurn_of_cons hturns
    cases turn with
    | engine => exact endsWithin_of_engine _ hturn hp
    | reset => exact endsWithin_of_reset _ hturns
    | host =>
      obtain ⟨t, hstep⟩ := step_next_of_host hturn hprog
      have hbusy : s.status.busy = true := (hs.flags_of_pending hp).1
      have hpending : t.pending = some p := (pending_of_host_step hturn hbusy hstep).trans hp
      have hrest : t.turns = rest := (movesOn_of_step hstep).turns.trans (congrArg List.tail hturns)
      exact .of_step hstep
        (ih (controlInvariantIsKept s t hs hstep) (programOk_of_step hprog hstep) hpending hrest)

/-- Settles O57: BUSY says that a command is pending, and a pending command ends. -/
theorem everyAcceptedCommandCompletes : Obligations.EveryAcceptedCommandCompletes := by
  intro s hs hprog
  cases hp : s.pending with
  | none =>
    have hidle : s.status.busy = false := by simpa [hp] using hs.1
    exact ⟨fun _ hbusy => by simp [hidle] at hbusy, 0, Nat.zero_le _, s, rfl, hidle, hp⟩
  | some p =>
    obtain ⟨k, hk, t, hrun, hbusy, hpending, hdone⟩ := endsWithin_of_pending hs hprog hp
    exact ⟨fun hreset _ => ⟨k, hk, t, hrun, hbusy, hdone hreset, hpending⟩, k, hk, t, hrun, hbusy, hpending⟩

end Sys2Proof.Machine
end

section
/-! PROOFS. The statements of 30_encoding.md about the encoder and the decoder: decode of encode (O3), encode of
decode (O4), strings of bytes (O5), the words written out (O1) and the positions of the default layout (O6). -/

namespace Sys2Proof

/-! ### Decode of encode (30_encoding.md sections 1 to 5) -/

/-- The reserved bits stand above OP in a command word (R80). -/
theorem encodeCmd_high (op : BitVec 2) (r : BitVec 30) : (encodeCmd op r).extractLsb' 2 30 = r :=
  BitVec.extractLsb'_append_eq_left

/-- A frame decodes to an instruction of its mode selector's row (R83). -/
theorem matchValue_decodeFrame (lay : Config.Layout) (fr : Frame) :
    Laws.Selector.matchValue (decodeFrame lay fr) = fieldRead fr 0 2 := by
  obtain h | h | h | h := Machine.op_cases (fieldRead fr 0 2)
  · rw [decodeFrame_of_code_zero h, h]
    rfl
  · rw [decodeFrame_of_code_one h, h]
    rfl
  · rw [decodeFrame_of_code_two h, h]
    rfl
  · rw [decodeFrame_of_code_three h, h]
    rfl

/-- Writing the slack bits leaves every bit below them alone (R86). -/
theorem fieldWrite_slack_below (fr : Frame) (slack : BitVec 2) {k : Nat} (hk : k < slackOffset) :
    (fieldWrite fr slackOffset slack).getLsbD k = fr.getLsbD k := by
  rw [fieldWrite_getLsbD, if_neg (by omega)]

section
variable {lay : Config.Layout} {fr : Frame} {ts : TimeStamp} {old : BitVec 2}

/-- Writing the slack bits of a mode 0 frame changes its slack and no other field (R84 to R86). -/
theorem decodeFrame_individual_withSlack (h : layoutOk lay = true) {p : IndPayload}
    (hfr : decodeFrame lay fr = .frameIndividual p ts old) (slack : BitVec 2) :
    decodeFrame lay (fieldWrite fr slackOffset slack) = .frameIndividual p ts slack := by
  have hcode : fieldRead fr 0 2 = 0 := by
    rw [← matchValue_decodeFrame lay, hfr]
    rfl
  have hagree (k : Nat) (hk : k < slackOffset) := fieldWrite_slack_below fr slack hk
  cases (decodeFrame_of_code_zero hcode).symm.trans hfr
  rw [decodeFrame_of_code_zero ((fieldRead_congr_below_slack hagree (by decide)).trans hcode),
    readInd_congr_below_slack hagree h, readTs_congr_below_slack hagree (by decide),
    fieldRead_fieldWrite_same _ _ _ (by decide)]

/-- Writing the slack bits of a mode 1 frame changes its slack and no other field (R84 to R86). -/
theorem decodeFrame_firstLastDeltaMid_withSlack (h : layoutOk lay = true) {p : FLPayload}
    (hfr : decodeFrame lay fr = .frameFirstLastDeltaMid p ts old) (slack : BitVec 2) :
    decodeFrame lay (fieldWrite fr slackOffset slack) = .frameFirstLastDeltaMid p ts slack := by
  have hcode : fieldRead fr 0 2 = 1 := by
    rw [← matchValue_decodeFrame lay, hfr]
    rfl
  have hagree (k : Nat) (hk : k < slackOffset) := fieldWrite_slack_below fr slack hk
  cases (decodeFrame_of_code_one hcode).symm.trans hfr
  rw [decodeFrame_of_code_one ((fieldRead_congr_below_slack hagree (by decide)).trans hcode),
    readFL_congr_below_slack hagree h, readTs_congr_below_slack hagree (by decide),
    fieldRead_fieldWrite_same _ _ _ (by decide)]

end

/-- Settles O3, per instruction: its selector picks the row (R81, R83) and each of its fields reads back. -/
theorem decodeOfEncodeIsTheInstruction : Obligations.DecodeOfEncodeIsTheInstruction := by
  intro lay h i
  cases i with
  | nop r => exact (Machine.decodeCmd_of_op_zero (Laws.Selector.nop r lay)).trans (by rw [encodeCmd_high])
  | encode r => exact (Machine.decodeCmd_of_op_one (Laws.Selector.encode r lay)).trans (by rw [encodeCmd_high])
  | decode r => exact (Machine.decodeCmd_of_op_two (Laws.Selector.decode r lay)).trans (by rw [encodeCmd_high])
  | reservedOp3 r =>
    exact (Machine.decodeCmd_of_op_three (Laws.Selector.reservedOp3 r lay)).trans (by rw [encodeCmd_high])
  | frameIndividual p ts slack => exact decodeFrame_individual_withSlack h (decodeFrame_buildInd h p ts) slack
  | frameFirstLastDeltaMid p ts slack =>
    exact decodeFrame_firstLastDeltaMid_withSlack h (decodeFrame_buildFL h p ts) slack
  | frameLastDeltaFirstDeltaMid p ts => exact decodeFrame_buildLD h p ts
  | frameUnknown rest =>
    exact (decodeFrame_of_code_three (Laws.Selector.frameUnknown rest lay)).trans
      (congrArg Instr.frameUnknown (fieldRead_fieldWrite_same _ _ _ (by decide)))

/-! ### Encode of decode: the fields cover every bit (30_encoding.md sections 1 to 5) -/

/-- The OP and the reserved bits are the whole command word (R80). -/
theorem encodeCmd_extract (w : Word) : encodeCmd (w.extractLsb' 0 2) (w.extractLsb' 2 30) = w :=
  BitVec.extractLsb'_append_extractLsb' (w := 30) (len := 2)

/-- The fields of an order without repetition leave no gap: each bit of the payload lies in one of them (R84). -/
theorem exists_field_of_bit {F : Type} [DecidableEq F] (width : F → Nat) {order : List F} (hnodup : order.Nodup)
    {off k : Nat} (hlo : off ≤ k) (hhi : k < off + (order.map width).sum) :
    ∃ f ∈ order, offsetIn width order off f ≤ k ∧ k < offsetIn width order off f + width f := by
  induction order generalizing off with
  | nil =>
    rw [List.map_nil, List.sum_nil] at hhi
    omega
  | cons g gs ih =>
    rw [List.map_cons, List.sum_cons] at hhi
    obtain ⟨hg, hgs⟩ := List.nodup_cons.mp hnodup
    by_cases hk : k < off + width g
    · exact ⟨g, List.mem_cons_self, by simpa [offsetIn] using ⟨hlo, hk⟩⟩
    · obtain ⟨f, hf, hbit⟩ := ih hgs (Nat.le_of_not_lt hk) (by omega)
      have hne : g ≠ f := fun hgf => hg (hgf ▸ hf)
      exact ⟨f, List.mem_cons_of_mem g hf, by simpa only [offsetIn, if_neg hne] using hbit⟩

section
variable {fr fr' : Frame} {k : Nat}

/-- Frames that read alike over a range have its bits in common (20_memory.md R61). -/
theorem getLsbD_eq_of_fieldRead_eq {off W : Nat} (h : fieldRead fr off W = fieldRead fr' off W) (hlo : off ≤ k)
    (hhi : k < off + W) : fr.getLsbD k = fr'.getLsbD k := by
  have hin : k - off < W := by omega
  have hbit : (fieldRead fr off W).getLsbD (k - off) = (fieldRead fr' off W).getLsbD (k - off) := by rw [h]
  simpa only [fieldRead_getLsbD, hin, Nat.add_sub_cancel' hlo, decide_true, Bool.true_and] using hbit

/-- Frames that agree in every field of a payload agree in every bit of it (R84). -/
theorem getLsbD_eq_of_fields_eq {F : Type} [DecidableEq F] (width : F → Nat) {order : List F}
    (hnodup : order.Nodup) {off : Nat}
    (h : ∀ f, fieldRead fr (offsetIn width order off f) (width f)
      = fieldRead fr' (offsetIn width order off f) (width f))
    (hlo : off ≤ k) (hhi : k < off + (order.map width).sum) : fr.getLsbD k = fr'.getLsbD k := by
  obtain ⟨f, _, hbegin, hend⟩ := exists_field_of_bit width hnodup hlo hhi
  exact getLsbD_eq_of_fieldRead_eq (h f) hbegin hend

/-- The bits of a frame are the mode selector, the payload, the timestamp and what stands above it (R82). -/
theorem frame_eq_of_parts (m : Mode) (hselector : fieldRead fr 0 2 = fieldRead fr' 0 2)
    (hpayload : ∀ k, 2 ≤ k → k < tsOffset m → fr.getLsbD k = fr'.getLsbD k) (hts : readTs fr m = readTs fr' m)
    (habove : ∀ k, tsOffset m + 17 ≤ k → k < 144 → fr.getLsbD k = fr'.getLsbD k) : fr = fr' := by
  obtain ⟨hstart, hcount⟩ := TimeStamp.mk.inj hts
  apply BitVec.eq_of_getLsbD_eq
  intro k hk
  by_cases h2 : k < 2
  · exact getLsbD_eq_of_fieldRead_eq hselector (Nat.zero_le k) (by omega)
  by_cases hts0 : k < tsOffset m
  · exact hpayload k (by omega) hts0
  by_cases hcount0 : k < tsOffset m + 11
  · exact getLsbD_eq_of_fieldRead_eq hstart (by omega) hcount0
  by_cases hcount1 : k < tsOffset m + 17
  · exact getLsbD_eq_of_fieldRead_eq hcount (by omega) (by omega)
  · exact habove k (by omega) hk

variable {lay : Config.Layout} (h : layoutOk lay = true)
include h

/-- The payload of a mode 0 frame gives all its bits (R84, R87). -/
theorem getLsbD_eq_of_readInd_eq (hp : readInd lay fr = readInd lay fr') (hlo : 2 ≤ k)
    (hhi : k < tsOffset .individual) : fr.getLsbD k = fr'.getLsbD k := by
  have hnodup : lay.ind.Nodup := (layoutOk_perm h).1.nodup_iff.mpr (by decide)
  have hfields (f : IndField) := (readInd_get lay fr f).symm.trans (hp ▸ readInd_get lay fr' f)
  exact getLsbD_eq_of_fields_eq _ hnodup hfields hlo (ind_totalWidth h ▸ hhi)

/-- The payload of a mode 1 frame gives all its bits (R84, R88). -/
theorem getLsbD_eq_of_readFL_eq (hp : readFL lay fr = readFL lay fr') (hlo : 2 ≤ k)
    (hhi : k < tsOffset .firstLastDeltaMid) : fr.getLsbD k = fr'.getLsbD k := by
  have hnodup : lay.fl.Nodup := (layoutOk_perm h).2.1.nodup_iff.mpr (by decide)
  have hfields (f : FLField) := (readFL_get lay fr f).symm.trans (hp ▸ readFL_get lay fr' f)
  exact getLsbD_eq_of_fields_eq _ hnodup hfields hlo (fl_totalWidth h ▸ hhi)

/-- The payload of a mode 2 frame gives all its bits (R84, R89). -/
theorem getLsbD_eq_of_readLD_eq (hp : readLD lay fr = readLD lay fr') (hlo : 2 ≤ k)
    (hhi : k < tsOffset .lastDeltaFirstDeltaMid) : fr.getLsbD k = fr'.getLsbD k := by
  have hnodup : lay.ld.Nodup := (layoutOk_perm h).2.2.nodup_iff.mpr (by decide)
  have hfields (f : LDField) := (readLD_get lay fr f).symm.trans (hp ▸ readLD_get lay fr' f)
  exact getLsbD_eq_of_fields_eq _ hnodup hfields hlo (ld_totalWidth h ▸ hhi)

/-- No two frames are one instruction: they have the selector in common, and then every bit of the mode's parts. -/
theorem decodeFrame_injective : Function.Injective (decodeFrame lay) := by
  intro fr fr' heq
  have hselector : fieldRead fr 0 2 = fieldRead fr' 0 2 := by
    rw [← matchValue_decodeFrame lay fr, heq, matchValue_decodeFrame]
  obtain hcode | hcode | hcode | hcode := Machine.op_cases (fieldRead fr 0 2)
  · rw [decodeFrame_of_code_zero hcode, decodeFrame_of_code_zero (hselector ▸ hcode)] at heq
    obtain ⟨hp, hts, hslack⟩ := Instr.frameIndividual.inj heq
    exact frame_eq_of_parts .individual hselector (fun _ => getLsbD_eq_of_readInd_eq h hp) hts
      fun _ => getLsbD_eq_of_fieldRead_eq hslack
  · rw [decodeFrame_of_code_one hcode, decodeFrame_of_code_one (hselector ▸ hcode)] at heq
    obtain ⟨hp, hts, hslack⟩ := Instr.frameFirstLastDeltaMid.inj heq
    exact frame_eq_of_parts .firstLastDeltaMid hselector (fun _ => getLsbD_eq_of_readFL_eq h hp) hts
      fun _ => getLsbD_eq_of_fieldRead_eq hslack
  · rw [decodeFrame_of_code_two hcode, decodeFrame_of_code_two (hselector ▸ hcode)] at heq
    obtain ⟨hp, hts⟩ := Instr.frameLastDeltaFirstDeltaMid.inj heq
    exact frame_eq_of_parts .lastDeltaFirstDeltaMid hselector (fun _ => getLsbD_eq_of_readLD_eq h hp) hts
      fun _ hlo hhi => absurd hhi (Nat.not_lt.mpr hlo)
  · rw [decodeFrame_of_code_three hcode, decodeFrame_of_code_three (hselector ▸ hcode)] at heq
    have hrest := Instr.frameUnknown.inj heq
    refine BitVec.eq_of_getLsbD_eq fun k hk => ?_
    obtain hlow | hhigh := Nat.lt_or_ge k 2
    · exact getLsbD_eq_of_fieldRead_eq hselector (Nat.zero_le k) (by omega)
    · exact getLsbD_eq_of_fieldRead_eq hrest hhigh hk

end

/-- A command word is encoded again from its OP and its reserved bits (R80, R81). -/
theorem encode_decodeCmd (lay : Config.Layout) (w : Word) :
    encode lay (decodeCmd w) = .cmd (encodeCmd (w.extractLsb' 0 2) (w.extractLsb' 2 30)) := by
  obtain h | h | h | h := Machine.op_cases (w.extractLsb' 0 2)
  · rw [Machine.decodeCmd_of_op_zero h, h]
    rfl
  · rw [Machine.decodeCmd_of_op_one h, h]
    rfl
  · rw [Machine.decodeCmd_of_op_two h, h]
    rfl
  · rw [Machine.decodeCmd_of_op_three h, h]
    rfl

/-- A frame is encoded again as a frame (R82, R83). -/
theorem exists_encode_decodeFrame (lay : Config.Layout) (fr : Frame) :
    ∃ fr', encode lay (decodeFrame lay fr) = .frame fr' := by
  unfold decodeFrame
  cases Mode.ofCode (fieldRead fr 0 2) <;> exact ⟨_, rfl⟩

/-- Settles O4. For a frame: what is encoded decodes to the same instruction (O3), which is no other frame's. -/
theorem encodeOfDecodeIsTheObject : Obligations.EncodeOfDecodeIsTheObject := by
  intro lay h e
  cases e with
  | cmd w => exact (encode_decodeCmd lay w).trans (congrArg Encoded.cmd (encodeCmd_extract w))
  | frame fr =>
    obtain ⟨fr', hencode⟩ := exists_encode_decodeFrame lay fr
    have hdecode : decode lay (.frame fr') = decodeFrame lay fr :=
      hencode ▸ decodeOfEncodeIsTheInstruction lay h (decodeFrame lay fr)
    exact hencode.trans (congrArg Encoded.frame (decodeFrame_injective h hdecode))

/-! ### Strings of bytes (30_encoding.md R80, R82, R92; 20_memory.md R60) -/

/-- As many bytes as asked for. -/
theorem length_bytesOfNat (n v : Nat) : (bytesOfNat n v).length = n := by
  induction n generalizing v with
  | zero => rfl
  | succ n ih => rw [bytesOfNat, List.length_cons, ih]

/-- The bytes of a number read back as the number, cut off at their count (20_memory.md R60). -/
theorem natOfBytes_bytesOfNat (n v : Nat) : natOfBytes (bytesOfNat n v) = v % 256 ^ n := by
  induction n generalizing v with
  | zero => simp [bytesOfNat, natOfBytes, Nat.mod_one]
  | succ n ih =>
    have hsplit : v % 256 ^ (n + 1) = v % 256 + 256 * (v / 256 % 256 ^ n) := by rw [Nat.pow_succ', Nat.mod_mul]
    rw [bytesOfNat, natOfBytes, ih, BitVec.toNat_ofNat, hsplit]

/-- Byte b of a number is its digit b in base 256. -/
theorem getElem?_bytesOfNat {n b : Nat} (v : Nat) (hb : b < n) :
    (bytesOfNat n v)[b]? = some (BitVec.ofNat 8 (v / 256 ^ b)) := by
  induction n generalizing v b with
  | zero => omega
  | succ n ih =>
    cases b with
    | zero => simp [bytesOfNat]
    | succ b => rw [bytesOfNat, List.getElem?_cons_succ, ih _ (by omega), Nat.div_div_eq_div_mul, Nat.pow_succ']

/-- The bytes of a bit string read back as it, where they are enough for its width. -/
theorem ofNat_natOfBytes_bytesOfNat {w : Nat} (n : Nat) (hw : 2 ^ w = 256 ^ n) (x : BitVec w) :
    BitVec.ofNat w (natOfBytes (bytesOfNat n x.toNat)) = x := by
  rw [natOfBytes_bytesOfNat, Nat.mod_eq_of_lt (hw ▸ x.isLt), BitVec.ofNat_toNat, BitVec.setWidth_eq]

/-- The digit b of a frame in base 256 is its byte b (20_memory.md R60). -/
theorem ofNat_digit_eq_frameByte (fr : Frame) (b : Nat) : BitVec.ofNat 8 (fr.toNat / 256 ^ b) = frameByte fr b := by
  apply BitVec.eq_of_toNat_eq
  rw [frameByte, BitVec.extractLsb'_toNat, BitVec.toNat_ofNat, Nat.shiftRight_eq_div_pow, Nat.pow_mul]

/-- The number of bytes of an object (R80, R82). -/
def Space.numBytes : Space → Nat
  | .cmd => 4
  | .frame => 18

/-- A string of bytes is an object exactly at the object's length (R92). -/
theorem objectOfBytes_ok_iff (sp : Space) (bytes : List Byte) :
    (∃ e, objectOfBytes sp bytes = .ok e) ↔ bytes.length = sp.numBytes := by
  cases sp with
  | cmd => by_cases h : bytes.length = 4 <;> simp [objectOfBytes, Space.numBytes, h]
  | frame => by_cases h : bytes.length = 18 <;> simp [objectOfBytes, Space.numBytes, h]

/-- Every object has an instruction, so bytes decode exactly where they are an object (R92). -/
theorem decodeBytes_ok_iff (lay : Config.Layout) (sp : Space) (bytes : List Byte) :
    (∃ i, decodeBytes lay sp bytes = .ok i) ↔ bytes.length = sp.numBytes := by
  rw [← objectOfBytes_ok_iff, decodeBytes]
  cases objectOfBytes sp bytes <;> simp

/-- Settles O5. -/
theorem bytesDecodeByLengthAlone : Obligations.BytesDecodeByLengthAlone := by
  refine ⟨fun lay bytes => ⟨decodeBytes_ok_iff lay .cmd bytes, decodeBytes_ok_iff lay .frame bytes⟩, fun w => ?_,
    fun fr => ⟨?_, fun b hb => ?_⟩⟩
  · rw [objectOfBytes, Encoded.bytes, if_pos (length_bytesOfNat ..), ofNat_natOfBytes_bytesOfNat 4 rfl]
  · rw [objectOfBytes, Encoded.bytes, if_pos (length_bytesOfNat ..), frameOfBytes,
      ofNat_natOfBytes_bytesOfNat 18 rfl]
  · rw [Encoded.bytes, getElem?_bytesOfNat _ hb, ofNat_digit_eq_frameByte]

/-! ### The tables (30_encoding.md R81, R83, R87 to R89) -/

/-- Settles O1, by evaluating the decoder on each word. -/
theorem writtenWordsDecode : Obligations.WrittenWordsDecode := by
  unfold Obligations.WrittenWordsDecode
  decide

/-- Settles O6. -/
theorem defaultPositionsAreTheTables : Obligations.DefaultPositionsAreTheTables :=
  ⟨indOffset_standard_idx, indOffset_standard_c, rfl, flOffset_standard_f, flOffset_standard_l, rfl,
    flOffset_standard_d, rfl, ldOffset_standard_l, ldOffset_standard_fd, ldOffset_standard_md⟩

end Sys2Proof
end
